-- ==== Sys2Proof/Word.lean ====
section
/-! DEFINITION. The word types of the block: a serial byte (30_encoding.md R73), a sample (00_scope.md R5),
an operation id (R76) and a trace word (R77). -/

namespace Sys2Proof

/-- One unit of the serial link: 8 bits (R73, R82). -/
abbrev Byte := BitVec 8

/-- One element of the Acquisition Buffer, and one conversion result: SAMPLE_W = 16 bits, unsigned (R5). -/
abbrev Sample := BitVec 16

/-- An 8-bit operation id (R76). -/
abbrev Opid := BitVec 8

/-- A 24-bit trace word: opid in bits 23 to 16, operand in bits 15 to 0 (R77). -/
abbrev TraceWord := BitVec 24

end Sys2Proof
end

