-- ==== Sys2Proof/Config.lean ====
section
/-! DEFINITION. What one implementation fixes (the parameters of 00_scope.md section 4) and the free values: the choices
the spec leaves open at each step. A free value is a constant with no body, so nothing can be proved of what it is. -/

namespace Sys2Proof.Config

/-- TRIG_EDGE, the polarity of the trigger edge: OPEN, and no rule depends on it (43_peripheral_interface.md R175). -/
inductive TrigEdge where
  | rising
  | falling
  deriving DecidableEq, Repr

/-- What is supposed, while MAIN waits inside a TICK, FILL or SEND, of the agent whose step it waits for (R11, R100). The
assumptions of R11 are named, and a claim may rest on one or not: so the supposition is an argument of the model
(DESIGN CHOICE, log 9). -/
inductive Answer where
  /-- The awaited step comes: ADC_COMPLETES, or TX_FAIR, is granted (R11). -/
  | assured
  /-- Nothing is supposed: the awaited step may come among the free steps of the other agents, or not at all. -/
  | unassured
  /-- The agent takes no step: the failure of R240, or of R245. -/
  | never
  deriving DecidableEq, Repr

/-- The compile-time parameters of one machine (R2 to R4, R6, R7, R13, R175), and what is supposed of its converter and
its transmitter (R11). No step writes them. -/
structure Params where
  /-- N, samples per batch (R2). -/
  n : Nat
  /-- M, batches per episode (R3). -/
  m : Nat
  /-- T_DEBOUNCE in milliseconds; no rule reads it (R4). -/
  tDebounce : Nat
  /-- ADC_BITS, the width of a conversion result (R6). -/
  adcBits : Nat
  /-- RX_DEPTH, the capacity of the receive queue in bytes (R7). -/
  rxDepth : Nat
  /-- TRIG_EDGE (R175). -/
  trigEdge : TrigEdge
  /-- MODEL'S OWN (log 9): what a TICK or FILL supposes of ENV_ADC (ADC_COMPLETES, R11; R240). -/
  adcAnswer : Answer
  /-- MODEL'S OWN (log 9): what a TICK or SEND supposes of ENV_TX (TX_FAIR, R11; R245). -/
  txAnswer : Answer
  deriving DecidableEq, Repr

/-- The parameter values the spec admits: N >= 1, M >= 1, 1 <= ADC_BITS <= 16, RX_DEPTH >= 1 (R2, R3, R6, R7). -/
abbrev Params.Admitted (p : Params) : Prop :=
  1 ≤ p.n ∧ 1 ≤ p.m ∧ 1 ≤ p.adcBits ∧ p.adcBits ≤ 16 ∧ 1 ≤ p.rxDepth

/-- The machine State.reset stands for: the reference values of N, M and T_DEBOUNCE (R2, R3, R4).
DESIGN CHOICE (log 1): ADC_BITS = 16, RX_DEPTH = 4, TRIG_EDGE = rising, which the spec leaves OPEN. Unsafe if a
statement rests on them; every statement of the package is about every admitted value. Of the converter and the transmitter nothing
is supposed (log 9). -/
def Params.reference : Params :=
  { n := 1024, m := 10, tDebounce := 300, adcBits := 16, rxDepth := 4, trigEdge := .rising
    adcAnswer := .unassured, txAnswer := .unassured }

/-- One free choice of the interleaving (R10): which of the enabled steps comes next, the byte a HOST_SEND carries
(R172, R176) and the value an ADC_COMPLETE carries (R173). -/
structure Choice where
  pick : Nat
  byte : Byte
  value : Sample
  deriving DecidableEq, Repr, Inhabited

/-- FREE VALUE (log 3): the schedule where no trace word is left. Any enabled step may be the next one (R10). -/
opaque freeSchedule : Nat → Choice

/-- FREE VALUE (log 9): the steps of the other agents that fall between two MAIN steps of a TICK, FILL or SEND (R100). -/
opaque freeInterference : Nat → List Choice

/-- FREE VALUE (log 9): the result of a conversion a FILL waits for (R140, R173). -/
opaque freeConversion : Nat → Sample

/-- FREE VALUE (log 4): on receive overflow, true to drop the oldest byte, false to drop the new one (R172). -/
opaque freeDropOldest : Nat → Bool

/-- FREE VALUE (log 5): what a read of ADC_RES gives while it holds ⊥ (R34). -/
opaque freeAdcRes : Nat → Sample

/-- FREE VALUE (log 5): the byte a shift sends while TX_HOLD holds ⊥ (R36). -/
opaque freeTxHold : Nat → Byte

end Sys2Proof.Config
end

