-- ==== Sys2Proof/Syntax.lean ====
section
/-! DEFINITION. The operations of the block, one constructor per row of spec/opcode_table.json (30_encoding.md R76). -/

namespace Sys2Proof

/-- The indicator patterns setIndicator takes (43_peripheral_interface.md R168). -/
inductive Indicator where
  | idle
  | sampling
  | transfer
  deriving DecidableEq, Repr

/-- The operations: the reset, the sixteen steps of the six agents, the twenty primitives and the three classes of
host byte (R76). -/
inductive Instr where
  /-- RESET (R230). -/
  | reset
  /-- IDLE_TOP (R101). -/
  | idleTop
  /-- IDLE_TEST (R102). -/
  | idleTest
  /-- DEBOUNCE_DONE (R104). -/
  | debounceDone
  /-- SAMP_TOP (R105). -/
  | sampTop
  /-- SAMP_POLL (R106). -/
  | sampPoll
  /-- XFER_TOP (R107). -/
  | xferTop
  /-- XFER_POLL (R108). -/
  | xferPoll
  /-- CONV_START (R141). -/
  | convStart
  /-- CONV_COLLECT (R142). -/
  | convCollect
  /-- TX_LO (R144). -/
  | txLo
  /-- TX_HI (R145). -/
  | txHi
  /-- TRIG_ISR (R132). -/
  | trigIsr
  /-- RX_ISR (R133). -/
  | rxIsr
  /-- HOST_SEND b (R172). -/
  | hostSend (b : Byte)
  /-- ADC_COMPLETE v (R173). -/
  | adcComplete (v : Sample)
  /-- TX_SHIFT (R174). -/
  | txShift
  /-- TICK, `tick()` (R100). -/
  | tick
  /-- FILL, `fill(buffer)` (R140). -/
  | fill
  /-- SEND, `send(buffer)` (R143). -/
  | send
  /-- SIGNAL_TRIGGER, `signalTrigger()` (R125). -/
  | signalTrigger
  /-- SIGNAL_CMD_S, `signalCommand(start-transfer)` (R126). -/
  | signalCmdS
  /-- SIGNAL_CMD_O, `signalCommand(continue-or-stop)` (R127). -/
  | signalCmdO
  /-- TAC_TRIGGER, `testAndClearTrigger()` (R128). -/
  | tacTrigger
  /-- TAC_CMD_S, `testAndClearCommand(start-transfer)` (R129). -/
  | tacCmdS
  /-- TAC_CMD_O, `testAndClearCommand(continue-or-stop)` (R130). -/
  | tacCmdO
  /-- CLEAR_TRIGGER (R131). -/
  | clearTrigger
  /-- START_CONVERSION, `startConversion()` (R162). -/
  | startConversion
  /-- IS_CONVERSION_DONE, `isConversionDone()` (R163). -/
  | isConversionDone
  /-- READ_CONVERSION_RESULT, `readConversionResult()` (R164). -/
  | readConversionResult
  /-- SEND_BYTE, `sendByte(b)` (R165). -/
  | sendByte (b : Byte)
  /-- RECEIVED_BYTE_AVAILABLE, `receivedByteAvailable()` (R166). -/
  | receivedByteAvailable
  /-- READ_BYTE, `readByte()` (R167). -/
  | readByte
  /-- SET_INDICATOR, `setIndicator(pattern)` (R168). -/
  | setIndicator (p : Indicator)
  /-- FLUSH_RX (R169). -/
  | flushRx
  /-- ON_EDGE_INTERRUPT, `onEdgeInterrupt(handler)`; in the model the one handler is TRIG_ISR's body (R170). -/
  | onEdgeInterrupt
  /-- ON_BYTE_RECEIVED_INTERRUPT, `onByteReceivedInterrupt(handler)`; the one handler is RX_ISR's body (R171). -/
  | onByteReceivedInterrupt
  /-- HB_START, the host byte 0x73 (R73, R126). -/
  | hbStart
  /-- HB_CONT, the host byte 0x6F (R73, R127). -/
  | hbCont
  /-- HB_OTHER, any other host byte (R73, R133). -/
  | hbOther (b : Byte)
  deriving DecidableEq, Repr

/-- The classes of operation (R76); a host byte is no trace operation (its format is HOSTBYTE8). -/
inductive OpClass where
  | reset
  | step
  | prim
  | hostByte
  deriving DecidableEq, Repr

/-- The six agents (00_scope.md R9). -/
inductive Agent where
  | main
  | isrEdge
  | isrRx
  | envHost
  | envAdc
  | envTx
  deriving DecidableEq, Repr

end Sys2Proof
end

