-- ==== Sys2Proof/WellFormed.lean ====
section
/-! DEFINITION. Which operation terms stand for an operation of the spec (30_encoding.md R73, R79). -/

namespace Sys2Proof

/-- An ADC_COMPLETE carries a value below 2^ADC_BITS (R79, 43_peripheral_interface.md R173); an HB_OTHER carries a byte
that is neither 0x73 nor 0x6F (R73: the two rows above it in the table take precedence). -/
def Instr.wellFormed (adcBits : Nat) : Instr → Bool
  | .adcComplete v => v.toNat < 2 ^ adcBits
  | .hbOther b => b != 0x73#8 && b != 0x6F#8
  | .reset => true
  | .idleTop => true
  | .idleTest => true
  | .debounceDone => true
  | .sampTop => true
  | .sampPoll => true
  | .xferTop => true
  | .xferPoll => true
  | .convStart => true
  | .convCollect => true
  | .txLo => true
  | .txHi => true
  | .trigIsr => true
  | .rxIsr => true
  | .hostSend _ => true
  | .txShift => true
  | .tick => true
  | .fill => true
  | .send => true
  | .signalTrigger => true
  | .signalCmdS => true
  | .signalCmdO => true
  | .tacTrigger => true
  | .tacCmdS => true
  | .tacCmdO => true
  | .clearTrigger => true
  | .startConversion => true
  | .isConversionDone => true
  | .readConversionResult => true
  | .sendByte _ => true
  | .receivedByteAvailable => true
  | .readByte => true
  | .setIndicator _ => true
  | .flushRx => true
  | .onEdgeInterrupt => true
  | .onByteReceivedInterrupt => true
  | .hbStart => true
  | .hbCont => true

end Sys2Proof
end

