-- ==== Sys2Proof/Decode.lean ====
section
/-! DEFINITION. The encodings of 30_encoding.md: operation ids (R76), trace words (R77), the trace decoder and what it
refuses (R78, R79), host bytes (R73); then an encoder from the same tables. Decoding is total and one length (R82). -/

namespace Sys2Proof

/-- Why a trace word is refused (R78, R79). -/
inductive DecodeError where
  /-- "no such operation": the opid is in no row of R76. -/
  | noSuchOperation
  /-- "primitive is not schedulable": the opid names a prim (R78). -/
  | primNotSchedulable
  /-- An operation with no operand whose operand field is not 0 (R79). -/
  | nonzeroOperand
  /-- A HOST_SEND whose operand bits 15 to 8 are not 0 (R79). -/
  | hostSendOperand
  /-- An ADC_COMPLETE with v >= 2^ADC_BITS (R79). -/
  | adcRange
  deriving DecidableEq, Repr

/-- The class of an operation (R76, the format column of the table). -/
def Instr.cls : Instr → OpClass
  | .reset => .reset
  | .idleTop => .step
  | .idleTest => .step
  | .debounceDone => .step
  | .sampTop => .step
  | .sampPoll => .step
  | .xferTop => .step
  | .xferPoll => .step
  | .convStart => .step
  | .convCollect => .step
  | .txLo => .step
  | .txHi => .step
  | .trigIsr => .step
  | .rxIsr => .step
  | .hostSend _ => .step
  | .adcComplete _ => .step
  | .txShift => .step
  | .tick => .prim
  | .fill => .prim
  | .send => .prim
  | .signalTrigger => .prim
  | .signalCmdS => .prim
  | .signalCmdO => .prim
  | .tacTrigger => .prim
  | .tacCmdS => .prim
  | .tacCmdO => .prim
  | .clearTrigger => .prim
  | .startConversion => .prim
  | .isConversionDone => .prim
  | .readConversionResult => .prim
  | .sendByte _ => .prim
  | .receivedByteAvailable => .prim
  | .readByte => .prim
  | .setIndicator _ => .prim
  | .flushRx => .prim
  | .onEdgeInterrupt => .prim
  | .onByteReceivedInterrupt => .prim
  | .hbStart => .hostByte
  | .hbCont => .hostByte
  | .hbOther _ => .hostByte

/-- Whether an operation may stand in a trace: class step or reset only (R78). -/
def Instr.schedulable (i : Instr) : Bool :=
  match i.cls with
  | .reset => true
  | .step => true
  | .prim => false
  | .hostByte => false

/-- The agent of an operation, as the agent column of R76 gives it. RESET is no agent's step (00_scope.md R9), the two
registrations belong to the boot, and a host byte is data. -/
def Instr.agent : Instr → Option Agent
  | .reset => none
  | .idleTop => some .main
  | .idleTest => some .main
  | .debounceDone => some .main
  | .sampTop => some .main
  | .sampPoll => some .main
  | .xferTop => some .main
  | .xferPoll => some .main
  | .convStart => some .main
  | .convCollect => some .main
  | .txLo => some .main
  | .txHi => some .main
  | .trigIsr => some .isrEdge
  | .rxIsr => some .isrRx
  | .hostSend _ => some .envHost
  | .adcComplete _ => some .envAdc
  | .txShift => some .envTx
  | .tick => some .main
  | .fill => some .main
  | .send => some .main
  | .signalTrigger => some .isrEdge
  | .signalCmdS => some .isrRx
  | .signalCmdO => some .isrRx
  | .tacTrigger => some .main
  | .tacCmdS => some .main
  | .tacCmdO => some .main
  | .clearTrigger => some .main
  | .startConversion => some .main
  | .isConversionDone => some .main
  | .readConversionResult => some .main
  | .sendByte _ => some .main
  | .receivedByteAvailable => some .main
  | .readByte => some .main
  | .setIndicator _ => some .main
  | .flushRx => some .main
  | .onEdgeInterrupt => none
  | .onByteReceivedInterrupt => none
  | .hbStart => none
  | .hbCont => none
  | .hbOther _ => none

/-- The operation id (R76). A host byte has none of its own: it is taken by an RX_ISR, whose id stands here (R133). -/
def Instr.opid : Instr → Opid
  | .reset => 0x00#8
  | .idleTop => 0x01#8
  | .idleTest => 0x02#8
  | .debounceDone => 0x03#8
  | .sampTop => 0x04#8
  | .sampPoll => 0x05#8
  | .xferTop => 0x06#8
  | .xferPoll => 0x07#8
  | .convStart => 0x08#8
  | .convCollect => 0x09#8
  | .txLo => 0x0A#8
  | .txHi => 0x0B#8
  | .trigIsr => 0x10#8
  | .rxIsr => 0x11#8
  | .hostSend _ => 0x20#8
  | .adcComplete _ => 0x21#8
  | .txShift => 0x22#8
  | .tick => 0x30#8
  | .fill => 0x31#8
  | .send => 0x32#8
  | .signalTrigger => 0x40#8
  | .signalCmdS => 0x41#8
  | .signalCmdO => 0x42#8
  | .tacTrigger => 0x43#8
  | .tacCmdS => 0x44#8
  | .tacCmdO => 0x45#8
  | .clearTrigger => 0x46#8
  | .startConversion => 0x50#8
  | .isConversionDone => 0x51#8
  | .readConversionResult => 0x52#8
  | .sendByte _ => 0x53#8
  | .receivedByteAvailable => 0x54#8
  | .readByte => 0x55#8
  | .setIndicator _ => 0x56#8
  | .flushRx => 0x57#8
  | .onEdgeInterrupt => 0x58#8
  | .onByteReceivedInterrupt => 0x59#8
  | .hbStart => 0x11#8
  | .hbCont => 0x11#8
  | .hbOther _ => 0x11#8

/-- Bits 23 to 16 of a trace word (R77). -/
def wordOpid (w : TraceWord) : Opid := w.extractLsb' 16 8

/-- Bits 15 to 0 of a trace word (R77). -/
def wordOperand (w : TraceWord) : Sample := w.extractLsb' 0 16

/-- A trace word from its two fields (R77). -/
def packWord (op : Opid) (x : Sample) : TraceWord := op ++ x

/-- The operation an opid names, its operand taken from the operand field x (R76, R77). SEND_BYTE and SET_INDICATOR take
an operand that no word carries: their field is 0 (R77, table), read here as the byte 0 and the pattern of code 0
(DEDUCED, log 7). -/
def opOf (op : Opid) (x : Sample) : Option Instr :=
  match op.toNat with
  | 0x00 => some .reset
  | 0x01 => some .idleTop
  | 0x02 => some .idleTest
  | 0x03 => some .debounceDone
  | 0x04 => some .sampTop
  | 0x05 => some .sampPoll
  | 0x06 => some .xferTop
  | 0x07 => some .xferPoll
  | 0x08 => some .convStart
  | 0x09 => some .convCollect
  | 0x0A => some .txLo
  | 0x0B => some .txHi
  | 0x10 => some .trigIsr
  | 0x11 => some .rxIsr
  | 0x20 => some (.hostSend (x.extractLsb' 0 8))
  | 0x21 => some (.adcComplete x)
  | 0x22 => some .txShift
  | 0x30 => some .tick
  | 0x31 => some .fill
  | 0x32 => some .send
  | 0x40 => some .signalTrigger
  | 0x41 => some .signalCmdS
  | 0x42 => some .signalCmdO
  | 0x43 => some .tacTrigger
  | 0x44 => some .tacCmdS
  | 0x45 => some .tacCmdO
  | 0x46 => some .clearTrigger
  | 0x50 => some .startConversion
  | 0x51 => some .isConversionDone
  | 0x52 => some .readConversionResult
  | 0x53 => some (.sendByte 0#8)
  | 0x54 => some .receivedByteAvailable
  | 0x55 => some .readByte
  | 0x56 => some (.setIndicator .idle)
  | 0x57 => some .flushRx
  | 0x58 => some .onEdgeInterrupt
  | 0x59 => some .onByteReceivedInterrupt
  | _ => none

/-- The operand check of R79, made once the opid is known. -/
def checkOperand (adcBits : Nat) (i : Instr) (x : Sample) : Except DecodeError Instr :=
  match i with
  | .hostSend _ => if x.extractLsb' 8 8 = 0#8 then .ok i else .error .hostSendOperand
  | .adcComplete _ => if x.toNat < 2 ^ adcBits then .ok i else .error .adcRange
  | _ => if x = 0#16 then .ok i else .error .nonzeroOperand

/-- The operation a trace word of R77 names, prims included: the opcode table read as it stands (R76, R77, R79). -/
def decodeWord (adcBits : Nat) (w : TraceWord) : Except DecodeError Instr :=
  match opOf (wordOpid w) (wordOperand w) with
  | none => .error .noSuchOperation
  | some i => checkOperand adcBits i (wordOperand w)

/-- The TRACE DECODER: the opid first, then its operand (R77); a prim's opid is refused whatever the operand (R78). It
does not check that a step is enabled (R80). -/
def decodeTrace (adcBits : Nat) (w : TraceWord) : Except DecodeError Instr :=
  match opOf (wordOpid w) (wordOperand w) with
  | none => .error .noSuchOperation
  | some i => if i.schedulable then checkOperand adcBits i (wordOperand w) else .error .primNotSchedulable

/-- A host byte, matched exactly on all 8 bits (R73). -/
def decodeHostByte (b : Byte) : Instr :=
  if b = 0x73#8 then .hbStart else if b = 0x6F#8 then .hbCont else .hbOther b

/-- What an operation is written as: a 24-bit trace word, or one byte of the serial link (R82). -/
inductive Code where
  | trace (w : TraceWord)
  | link (b : Byte)
  deriving DecidableEq, Repr

/-- Decoding, total on every code (R73, R76, R77). -/
def decode (adcBits : Nat) : Code → Except DecodeError Instr
  | .trace w => decodeWord adcBits w
  | .link b => .ok (decodeHostByte b)

/-- The operand field of an operation's trace word: HOST_SEND's byte, ADC_COMPLETE's value, 0 for every other (R77). -/
def Instr.operandField : Instr → Sample
  | .hostSend b => b.setWidth 16
  | .adcComplete v => v
  | _ => 0#16

/-- The trace word of an operation (R77). -/
def encodeWord (i : Instr) : TraceWord := packWord i.opid i.operandField

/-- The encoder: the host bytes of R73, and the trace words of R77 for every other operation. -/
def encode : Instr → Code
  | .hbStart => .link 0x73#8
  | .hbCont => .link 0x6F#8
  | .hbOther b => .link b
  | .reset => .trace (encodeWord .reset)
  | .idleTop => .trace (encodeWord .idleTop)
  | .idleTest => .trace (encodeWord .idleTest)
  | .debounceDone => .trace (encodeWord .debounceDone)
  | .sampTop => .trace (encodeWord .sampTop)
  | .sampPoll => .trace (encodeWord .sampPoll)
  | .xferTop => .trace (encodeWord .xferTop)
  | .xferPoll => .trace (encodeWord .xferPoll)
  | .convStart => .trace (encodeWord .convStart)
  | .convCollect => .trace (encodeWord .convCollect)
  | .txLo => .trace (encodeWord .txLo)
  | .txHi => .trace (encodeWord .txHi)
  | .trigIsr => .trace (encodeWord .trigIsr)
  | .rxIsr => .trace (encodeWord .rxIsr)
  | .hostSend b => .trace (encodeWord (.hostSend b))
  | .adcComplete v => .trace (encodeWord (.adcComplete v))
  | .txShift => .trace (encodeWord .txShift)
  | .tick => .trace (encodeWord .tick)
  | .fill => .trace (encodeWord .fill)
  | .send => .trace (encodeWord .send)
  | .signalTrigger => .trace (encodeWord .signalTrigger)
  | .signalCmdS => .trace (encodeWord .signalCmdS)
  | .signalCmdO => .trace (encodeWord .signalCmdO)
  | .tacTrigger => .trace (encodeWord .tacTrigger)
  | .tacCmdS => .trace (encodeWord .tacCmdS)
  | .tacCmdO => .trace (encodeWord .tacCmdO)
  | .clearTrigger => .trace (encodeWord .clearTrigger)
  | .startConversion => .trace (encodeWord .startConversion)
  | .isConversionDone => .trace (encodeWord .isConversionDone)
  | .readConversionResult => .trace (encodeWord .readConversionResult)
  | .sendByte b => .trace (encodeWord (.sendByte b))
  | .receivedByteAvailable => .trace (encodeWord .receivedByteAvailable)
  | .readByte => .trace (encodeWord .readByte)
  | .setIndicator p => .trace (encodeWord (.setIndicator p))
  | .flushRx => .trace (encodeWord .flushRx)
  | .onEdgeInterrupt => .trace (encodeWord .onEdgeInterrupt)
  | .onByteReceivedInterrupt => .trace (encodeWord .onByteReceivedInterrupt)

/-- The operation with the operand its word carries: SEND_BYTE and SET_INDICATOR lose theirs (R77, log 7). -/
def Instr.asCoded : Instr → Instr
  | .sendByte _ => .sendByte 0#8
  | .setIndicator _ => .setIndicator .idle
  | i => i

/-- The host's view of the decoder: a row of 8 bits is a host byte (HOSTBYTE8), any other a 24-bit word, decoded with
the reference parameters. -/
def decodeTableWord (nbits w : Nat) : Option Instr :=
  if nbits ≤ 8 then
    if w < 2 ^ 8 then some (decodeHostByte (BitVec.ofNat 8 w)) else none
  else if w < 2 ^ 24 then
    match decodeWord Config.Params.reference.adcBits (BitVec.ofNat 24 w) with
    | .ok i => some i
    | .error _ => none
  else none

end Sys2Proof
end

