-- ==== Sys2Proof/Machine/Codes.lean ====
section
/-! DEFINITION. The internal state codes of 30_encoding.md section 1: ST (R70), PH (R71) and IND (R72), and the two
command bytes of the serial link (R73). -/

namespace Sys2Proof.Machine

/-- ST = IDLE (R70). -/
abbrev ST.idle : BitVec 2 := 0b00#2
/-- ST = SAMPLING (R70). -/
abbrev ST.sampling : BitVec 2 := 0b01#2
/-- ST = TRANSFER (R70). Code 11 is reserved. -/
abbrev ST.transfer : BitVec 2 := 0b10#2

/-- PH_TOP: MAIN is at a tick boundary (R71, 10_state.md R21). Codes 9 to 15 are reserved. -/
abbrev PH.top : BitVec 4 := 0#4
/-- PH_IDLE_TEST (R71). -/
abbrev PH.idleTest : BitVec 4 := 1#4
/-- PH_DEBOUNCE, the debounce wait (R71, 40_state_machine.md R103). -/
abbrev PH.debounce : BitVec 4 := 2#4
/-- PH_CONV_START (R71). -/
abbrev PH.convStart : BitVec 4 := 3#4
/-- PH_CONV_WAIT (R71). -/
abbrev PH.convWait : BitVec 4 := 4#4
/-- PH_SAMP_POLL (R71). -/
abbrev PH.sampPoll : BitVec 4 := 5#4
/-- PH_TX_LO (R71). -/
abbrev PH.txLo : BitVec 4 := 6#4
/-- PH_TX_HI (R71). -/
abbrev PH.txHi : BitVec 4 := 7#4
/-- PH_XFER_POLL (R71). -/
abbrev PH.xferPoll : BitVec 4 := 8#4

/-- The 2-bit code of an indicator pattern (R72). Code 11 is reserved and never written. -/
def indicatorCode : Indicator → BitVec 2
  | .idle => 0b00#2
  | .sampling => 0b01#2
  | .transfer => 0b10#2

/-- The byte 's', "start transfer" (R73). -/
abbrev startByte : Byte := 0x73#8
/-- The byte 'o', "continue/stop" (R73). -/
abbrev contByte : Byte := 0x6F#8

end Sys2Proof.Machine
end

