-- ==== Sys2Proof/Machine/State.lean ====
section
/-! DEFINITION. Every piece of state the spec gives the machine (10_state.md), as plain data, the reasons a step can
stop, and the machine right after reset (70_reset_and_hazards.md R230). -/

namespace Sys2Proof.Machine

open Sys2Proof.Config (Params)

/-- The reasons of a MODEL fault (60_exceptions.md R202). A model fault is no stop of the machine: it is a next state
whose FAULT field is set (R201), since RESET is still enabled in it. -/
inductive FaultReason where
  | badControl
  | bufNotFull
  | batch
  | index
  | unwrittenRead
  | adcBusy
  | adcNotDone
  | rxEmpty
  deriving DecidableEq, Repr

/-- What a model fault records: its reason, and the opid of the step that raised it (R201). -/
structure FaultRecord where
  reason : FaultReason
  opid : Opid
  deriving DecidableEq, Repr

/-- The Acquisition Buffer (R31, R50): the written elements, by index, indices strictly rising. An index not listed
holds ⊥, the spec's own "unwritten" (R33). -/
abbrev Memory := List (Nat × Sample)

/-- Why the machine stops. -/
inductive Fault where
  /-- Raised by exec, and so by step, when the operation's guard does not hold: the step is not performed and the run is
  STUCK at that word (30_encoding.md R80, 60_exceptions.md R202). Carries the opid. Safe: the spec gives no next state. -/
  | notEnabled (opid : Opid)
  /-- Raised by exec of a TICK, FILL or SEND whose MAIN waits without end: its converter does not complete or its
  transmitter does not drain (40_state_machine.md R100, 70_reset_and_hazards.md R240, R245; the hang of R202). Carries the
  opid of the MAIN step that waits. No step that a trace may hold raises it. Safe: such a tick has no end to go on from. -/
  | waitsForever (opid : Opid)
  deriving DecidableEq, Repr

/-- Why an operation is refused. -/
inductive Refusal where
  /-- An arm of exec with no meaning yet would answer this. No arm does. Safe. -/
  | notModelled (mnemonic : String)
  /-- Raised by step when the trace decoder refuses the next trace word (30_encoding.md R78, R79), and by exec for an
  ADC_COMPLETE whose value is outside [0, 2^ADC_BITS) (R173, R79). Safe: the spec refuses it. -/
  | word (e : DecodeError)
  /-- Raised by step for parameter values the spec excludes (00_scope.md R2, R3, R6, R7: "a model must reject these
  parameter values", 93). Safe. -/
  | badParameters
  deriving DecidableEq, Repr

/-- The state of the machine: 10_state.md R20 to R38, the parameters, and three fields of the model's own. -/
structure State where
  /-- The compile-time parameters (R13); no step writes them. -/
  params : Params
  /-- ST, the sequencer state (R20). -/
  st : BitVec 2
  /-- PH, MAIN's phase inside the tick (R21). -/
  ph : BitVec 4
  /-- ENTRY, Idle entry pending (R23). -/
  entry : Bool
  /-- BATCH, completed batches of the episode, BATCH_W bits (R24, R8). -/
  batch : Nat
  /-- WR, the buffer write index, IDX_W bits (R25, R8). -/
  wr : Nat
  /-- RD, the buffer read index, IDX_W bits (R26, R8). -/
  rd : Nat
  /-- TRIG, the trigger cell (R27). -/
  trig : Bool
  /-- CMD_S, the start-transfer latch (R28). -/
  cmdS : Bool
  /-- CMD_O, the continue-or-stop latch (R29). -/
  cmdO : Bool
  /-- IND, the indicator output; none is the spec's ⊥, its reset value (R30). -/
  ind : Option (BitVec 2)
  /-- BUF (R31). -/
  buf : Memory
  /-- ADC_BUSY, a conversion is in progress (R34). -/
  adcBusy : Bool
  /-- ADC_DONE, a result is ready and unread (R34). -/
  adcDone : Bool
  /-- ADC_RES, the last result; none is the spec's ⊥, its reset value (R34). -/
  adcRes : Option Sample
  /-- RXQ, the receive queue, head first (R35). -/
  rxq : List Byte
  /-- TX_FULL, the holding register holds a byte (R36). -/
  txFull : Bool
  /-- TX_HOLD, that byte; none is the spec's ⊥, its reset value (R36). -/
  txHold : Option Byte
  /-- HOST_OUT, the bytes the host has received, in order (R37). -/
  hostOut : List Byte
  /-- FAULT with its record; none is FAULT = 0 (R38, R201). -/
  fault : Option FaultRecord
  /-- MODEL'S OWN (log 8): what the last value-returning primitive executed on its own returned. -/
  ret : Option Sample
  /-- MODEL'S OWN (log 2): the trace words still to be scheduled (R77, R80). -/
  trace : List TraceWord
  /-- MODEL'S OWN (log 3): how many free values have been drawn. -/
  draws : Nat
  deriving DecidableEq, Repr

/-- The machine of parameters p right after RESET (R230, 10_state.md section 6). The fields ret, trace and draws are the
model's own (DESIGN CHOICE, logs 2, 3, 8). -/
def State.resetWith (p : Params) : State :=
  { params := p
    st := ST.idle, ph := PH.top, entry := true
    batch := 0, wr := 0, rd := 0
    trig := false, cmdS := false, cmdO := false
    ind := none
    buf := []
    adcBusy := false, adcDone := false, adcRes := none
    rxq := []
    txFull := false, txHold := none
    hostOut := []
    fault := none
    ret := none
    trace := []
    draws := 0 }

/-- The machine right after reset, with the reference parameters (log 1). -/
def State.reset : State := State.resetWith Config.Params.reference

end Sys2Proof.Machine
end

