-- ==== Sys2Proof/Machine/Flags.lean ====
section
/-! DEFINITION. The one-bit state: the three signal cells with their SET, TAC and CLR (41_event_capture.md R120 to R124),
the combinational buffer status (42_sampler_transmitter.md R146) and the pending condition of the byte-received
interrupt (60_exceptions.md R206).

The two domains are ordered by setCell, testAndClear and clearCell alone, each within one atomic step: Instr has no fence
or barrier, and needs none (20_memory.md R61, R59, R56). -/

namespace Sys2Proof.Machine

/-- The three signal cells (R120). -/
inductive SignalCell where
  | trig
  | cmdS
  | cmdO
  deriving DecidableEq, Repr

/-- The value of a cell. -/
def State.cell (c : SignalCell) (s : State) : Bool :=
  match c with
  | .trig => s.trig
  | .cmdS => s.cmdS
  | .cmdO => s.cmdO

/-- A cell written. -/
def State.withCell (c : SignalCell) (v : Bool) (s : State) : State :=
  match c with
  | .trig => { s with trig := v }
  | .cmdS => { s with cmdS := v }
  | .cmdO => { s with cmdO := v }

/-- SET(c): c <- 1 (R122). -/
def State.setCell (c : SignalCell) (s : State) : State := s.withCell c true

/-- CLR(c): c <- 0 (R124). -/
def State.clearCell (c : SignalCell) (s : State) : State := s.withCell c false

/-- TAC(c): the cell's value, and the state with the cell cleared, as one operation (R123). -/
def State.testAndClear (c : SignalCell) (s : State) : Bool × State := (s.cell c, s.withCell c false)

/-- BUF_FULL = (WR = N) (R146). -/
def State.bufFull (s : State) : Bool := s.wr == s.params.n

/-- BUF_DRAINED = (RD = N) (R146). -/
def State.bufDrained (s : State) : Bool := s.rd == s.params.n

/-- The byte-received interrupt is pending exactly while RXQ is not empty (R206, R133). -/
def State.rxPending (s : State) : Bool := !s.rxq.isEmpty

end Sys2Proof.Machine
end

