-- ==== Sys2Proof/Machine/Control.lean ====
section
/-! DEFINITION. The control point (ST, PH) and the guards: which MAIN step each legal pair stands for
(10_state.md R22, 40_state_machine.md R112), what a MAIN step waits for (R111), and when each step of each agent is
enabled (00_scope.md R10). -/

namespace Sys2Proof.Machine

/-- The eleven steps of MAIN (00_scope.md R9). -/
inductive MainStep where
  | idleTop
  | idleTest
  | debounceDone
  | sampTop
  | convStart
  | convCollect
  | sampPoll
  | xferTop
  | txLo
  | txHi
  | xferPoll
  deriving DecidableEq, Repr

/-- The operation a MAIN step is. -/
def MainStep.toInstr : MainStep → Instr
  | .idleTop => .idleTop
  | .idleTest => .idleTest
  | .debounceDone => .debounceDone
  | .sampTop => .sampTop
  | .convStart => .convStart
  | .convCollect => .convCollect
  | .sampPoll => .sampPoll
  | .xferTop => .xferTop
  | .txLo => .txLo
  | .txHi => .txHi
  | .xferPoll => .xferPoll

/-- The steps of R112's table, in its order. -/
def MainStep.all : List MainStep :=
  [.idleTop, .idleTest, .debounceDone, .sampTop, .convStart, .convCollect, .sampPoll,
    .xferTop, .txLo, .txHi, .xferPoll]

/-- The control point each MAIN step is taken from (R112). -/
def MainStep.control : MainStep → BitVec 2 × BitVec 4
  | .idleTop => (ST.idle, PH.top)
  | .idleTest => (ST.idle, PH.idleTest)
  | .debounceDone => (ST.idle, PH.debounce)
  | .sampTop => (ST.sampling, PH.top)
  | .convStart => (ST.sampling, PH.convStart)
  | .convCollect => (ST.sampling, PH.convWait)
  | .sampPoll => (ST.sampling, PH.sampPoll)
  | .xferTop => (ST.transfer, PH.top)
  | .txLo => (ST.transfer, PH.txLo)
  | .txHi => (ST.transfer, PH.txHi)
  | .xferPoll => (ST.transfer, PH.xferPoll)

/-- MAIN's step at a control point; none on an illegal pair (R22, R112). -/
def mainAt (st : BitVec 2) (ph : BitVec 4) : Option MainStep :=
  MainStep.all.find? fun m => m.control == (st, ph)

/-- (ST, PH) is one of the eleven legal pairs (R22). -/
def State.legalControl (s : State) : Bool := (mainAt s.st s.ph).isSome

/-- What a MAIN step waits for, beyond (ST, PH): the converter for CONV_COLLECT, the transmitter for TX_LO and TX_HI,
nothing for the other eight (R111). -/
def MainStep.ready (m : MainStep) (s : State) : Bool :=
  match m with
  | .convCollect => s.adcDone
  | .txLo => !s.txFull
  | .txHi => !s.txFull
  | .idleTop => true
  | .idleTest => true
  | .debounceDone => true
  | .sampTop => true
  | .convStart => true
  | .sampPoll => true
  | .xferTop => true
  | .xferPoll => true

/-- A MAIN step is enabled when FAULT = 0 and its guard holds. On an illegal pair MAIN's next step raises BadControl,
"enabled at once" (R112): each MAIN word is then MAIN's next step (DEDUCED, log 6). -/
def MainStep.enabled (m : MainStep) (s : State) : Bool :=
  s.fault.isNone &&
    match mainAt s.st s.ph with
    | none => true
    | some k => k == m && m.ready s

/-- When an operation may be scheduled (00_scope.md R10, R14): each step's guard with FAULT = 0; RESET always (R230). A
prim and a host byte are never scheduled on their own (30_encoding.md R76, R78). -/
def enabled (i : Instr) (s : State) : Bool :=
  match i with
  | .reset => true
  | .idleTop => MainStep.idleTop.enabled s
  | .idleTest => MainStep.idleTest.enabled s
  | .debounceDone => MainStep.debounceDone.enabled s
  | .sampTop => MainStep.sampTop.enabled s
  | .sampPoll => MainStep.sampPoll.enabled s
  | .xferTop => MainStep.xferTop.enabled s
  | .xferPoll => MainStep.xferPoll.enabled s
  | .convStart => MainStep.convStart.enabled s
  | .convCollect => MainStep.convCollect.enabled s
  | .txLo => MainStep.txLo.enabled s
  | .txHi => MainStep.txHi.enabled s
  | .trigIsr => s.fault.isNone
  | .rxIsr => s.fault.isNone && s.rxPending
  | .hostSend _ => s.fault.isNone
  | .adcComplete _ => s.fault.isNone && s.adcBusy
  | .txShift => s.fault.isNone && s.txFull
  | .tick => false
  | .fill => false
  | .send => false
  | .signalTrigger => false
  | .signalCmdS => false
  | .signalCmdO => false
  | .tacTrigger => false
  | .tacCmdS => false
  | .tacCmdO => false
  | .clearTrigger => false
  | .startConversion => false
  | .isConversionDone => false
  | .readConversionResult => false
  | .sendByte _ => false
  | .receivedByteAvailable => false
  | .readByte => false
  | .setIndicator _ => false
  | .flushRx => false
  | .onEdgeInterrupt => false
  | .onByteReceivedInterrupt => false
  | .hbStart => false
  | .hbCont => false
  | .hbOther _ => false

end Sys2Proof.Machine
end

