-- ==== Sys2Proof/Machine/Memory.lean ====
section
/-! DEFINITION. The storage of the Acquisition Buffer: one canonical form, its read and its write
(20_memory.md R50, R52, R54). -/

namespace Sys2Proof.Machine

/-- The canonical form: indices strictly rising. An unlisted index holds ⊥, which no write stores, so equal buffers are
equal lists. -/
abbrev Memory.wf (m : Memory) : Prop := m.Pairwise fun a b => a.1 < b.1

/-- Element i, or none for ⊥ (R33). -/
def Memory.read : Memory → Nat → Option Sample
  | [], _ => none
  | (j, v) :: rest, i => if i = j then some v else Memory.read rest i

/-- The buffer with element i holding v (R52). -/
def Memory.write : Memory → Nat → Sample → Memory
  | [], i, v => [(i, v)]
  | (j, w) :: rest, i, v =>
    if i < j then (i, v) :: (j, w) :: rest
    else if i = j then (i, v) :: rest
    else (j, w) :: Memory.write rest i v

end Sys2Proof.Machine
end

