-- ==== Sys2Proof/Machine/Operands.lean ====
section
/-! DEFINITION. The operand forms and the arithmetic of the block: derived register widths (00_scope.md R8), the modular
increment (section 6), byte selection (20_memory.md R53), zero extension (30_encoding.md R75) and the free operands of
an interleaving. -/

namespace Sys2Proof.Machine

/-- The least w with 2^w > k (R8). -/
def leastWidth (k : Nat) : Nat := if k = 0 then 0 else Nat.log2 k + 1

/-- BATCH_W (R8). -/
def batchWidth (p : Config.Params) : Nat := leastWidth p.m

/-- IDX_W (R8). -/
def indexWidth (p : Config.Params) : Nat := leastWidth p.n

/-- `+1` on a counter of w bits, modulo 2^w (00_scope.md section 6). -/
def increment (w x : Nat) : Nat := (x + 1) % 2 ^ w

/-- v[7:0], the byte sent first (R53). -/
def lowByte (v : Sample) : Byte := v.extractLsb' 0 8

/-- v[15:8], the byte sent second (R53). -/
def highByte (v : Sample) : Byte := v.extractLsb' 8 8

/-- The host's reassembly of a sample, byte 1 above byte 0 (R75). -/
def joinBytes (lo hi : Byte) : Sample := hi ++ lo

/-- zext_16 of a byte a primitive returns. -/
def byteSample (b : Byte) : Sample := b.setWidth 16

/-- zext_16 of a bit a primitive returns. -/
def bitSample (b : Bool) : Sample := if b then 1#16 else 0#16

/-- The conversion results of a converter of ADC_BITS bits: [0, 2^ADC_BITS), zero-extended (R6, R75). -/
def inAdcRange (p : Config.Params) (v : Sample) : Bool := v.toNat < 2 ^ p.adcBits

/-- A free 16-bit value brought into [0, 2^ADC_BITS), the limit R173 sets on a draw: its low ADC_BITS bits. -/
def boundToAdc (p : Config.Params) (v : Sample) : Sample := BitVec.ofNat 16 (v.toNat % 2 ^ p.adcBits)

/-- The 2N bytes of one batch: each element low byte first, in buffer order (R74). -/
def batchBytes : List Sample → List Byte
  | [] => []
  | v :: rest => lowByte v :: highByte v :: batchBytes rest

end Sys2Proof.Machine
end

