-- ==== Sys2Proof/Machine/Ops.lean ====
section
/-! DEFINITION. The shared operations: raising a model fault (60_exceptions.md R201), performing a step atomically under
its guard (00_scope.md R10, R14), RESET (70_reset_and_hazards.md R230), the buffer primitives (20_memory.md R52), and the
contract operations of the peripherals (43_peripheral_interface.md R162 to R174). -/

namespace Sys2Proof.Machine

/-- What exec and step answer. -/
abbrev Result := Host.Outcome State Fault Refusal

/-- TAKING A MODEL FAULT, `raise Fault(reason)` in the step of the given opid: FAULT is set with the reason and the opid,
and nothing else is written (R201). -/
def State.raiseFault (s : State) (r : FaultReason) (op : Opid) : State := { s with fault := some ⟨r, op⟩ }

/-- The only way out of a model fault: RESET, from any state (R230). Every element takes the value of 10_state.md
section 6. The parameters are compile-time constants (R13); the pending schedule and the count of free values are the
model's own and go on (DESIGN CHOICE, logs 2, 3). -/
def State.resetKeeping (s : State) : State :=
  { State.resetWith s.params with trace := s.trace, draws := s.draws }

/-- A step whose body may raise a model fault: the fault is taken in the state before the step, so that the step "writes
nothing else" (R201). -/
def atomically (op : Opid) (s : State) (r : Except FaultReason State) : Result :=
  match r with
  | .ok t => .next t
  | .error e => .next (s.raiseFault e op)

/-- A step or a primitive under its guard, its body one indivisible transition (20_memory.md R56, R59); every guard also
requires FAULT = 0 (R14). Not enabled, it is not performed (30_encoding.md R80). -/
def perform (op : Opid) (guard : Bool) (body : State → Except FaultReason State) (s : State) : Result :=
  if s.fault.isNone && guard then atomically op s (body s) else .fault (.notEnabled op)

/-- MAIN's dispatch for the step m: BadControl on an illegal pair, the step where (ST, PH) is its own and what it waits
for has come, else not enabled (40_state_machine.md R112). -/
def performMain (m : MainStep) (body : State → Except FaultReason State) (s : State) : Result :=
  if s.fault.isNone then
    match mainAt s.st s.ph with
    | none => .next (s.raiseFault .badControl m.toInstr.opid)
    | some k => if k == m && m.ready s then atomically m.toInstr.opid s (body s) else .fault (.notEnabled m.toInstr.opid)
  else .fault (.notEnabled m.toInstr.opid)

/-- `goto(s, p)` (00_scope.md section 6). -/
def State.goto (s : State) (st : BitVec 2) (ph : BitVec 4) : State := { s with st := st, ph := ph }

/-- The value a primitive executed on its own returned (log 8). -/
def State.returning (s : State) (v : Sample) : State := { s with ret := some v }

/-- `MemRead(i, 2)` (R52). -/
def memRead (i : Nat) (s : State) : Except FaultReason Sample :=
  if s.params.n ≤ i then .error .index
  else
    match Memory.read s.buf i with
    | none => .error .unwrittenRead
    | some v => .ok v

/-- `MemWrite(i, 2, v)` (R52). -/
def memWrite (i : Nat) (v : Sample) (s : State) : Except FaultReason State :=
  if s.params.n ≤ i then .error .index else .ok { s with buf := Memory.write s.buf i v }

/-- `startConversion()` (R162). -/
def State.startConversion (s : State) : Except FaultReason State :=
  if s.adcBusy || s.adcDone then .error .adcBusy else .ok { s with adcBusy := true, adcDone := false }

/-- ADC_RES, and the state after reading it; while it holds ⊥ the value read is a FREE VALUE (R34, log 5). -/
def State.readAdcRes (s : State) : Sample × State :=
  match s.adcRes with
  | some v => (v, s)
  | none => (Config.freeAdcRes s.draws, { s with draws := s.draws + 1 })

/-- `readConversionResult()`: the result, and the state with ADC_DONE cleared (R164). -/
def State.readConversionResult (s : State) : Except FaultReason (Sample × State) :=
  if s.adcDone then .ok (s.readAdcRes.1, { s.readAdcRes.2 with adcDone := false }) else .error .adcNotDone

/-- `sendByte(b)` once TX_FULL = 0, which the caller's guard carries (R165). -/
def State.sendByte (s : State) (b : Byte) : State := { s with txHold := some b, txFull := true }

/-- `readByte()` (R167). -/
def State.readByte (s : State) : Except FaultReason (Byte × State) :=
  match s.rxq with
  | [] => .error .rxEmpty
  | b :: rest => .ok (b, { s with rxq := rest })

/-- `setIndicator(p)` (R168). -/
def State.setIndicator (s : State) (p : Indicator) : State := { s with ind := some (indicatorCode p) }

/-- flushRx: RXQ <- [] (R169). -/
def State.flushRx (s : State) : State := { s with rxq := [] }

/-- What RX_ISR does with the byte it has read: the exact match of 30_encoding.md R73 (41_event_capture.md R133). -/
def State.takeHostByte (s : State) (b : Byte) : State :=
  if b = startByte then s.setCell .cmdS else if b = contByte then s.setCell .cmdO else s

/-- A host byte arriving, dropOldest being the outcome on overflow: both are admitted (R172). -/
def State.receive (s : State) (dropOldest : Bool) (b : Byte) : State :=
  if s.rxq.length < s.params.rxDepth then { s with rxq := s.rxq ++ [b] }
  else if dropOldest then { s with rxq := s.rxq.tail ++ [b] }
  else s

/-- HOST_SEND's effect, the overflow outcome a FREE VALUE (R172, log 4). -/
def State.hostSends (s : State) (b : Byte) : State :=
  if s.rxq.length < s.params.rxDepth then s.receive false b
  else { s.receive (Config.freeDropOldest s.draws) b with draws := s.draws + 1 }

/-- ADC_COMPLETE's effect (R173). -/
def State.completeConversion (s : State) (v : Sample) : State :=
  { s with adcRes := some v, adcDone := true, adcBusy := false }

/-- The byte TX_SHIFT sends: TX_HOLD, or a FREE VALUE while TX_HOLD holds ⊥ (R36, R174, log 5). -/
def State.heldByte (s : State) : Byte × State :=
  match s.txHold with
  | some b => (b, s)
  | none => (Config.freeTxHold s.draws, { s with draws := s.draws + 1 })

/-- TX_SHIFT's effect (R174). -/
def State.shiftOut (s : State) : State :=
  { s.heldByte.2 with hostOut := s.hostOut ++ [s.heldByte.1], txFull := false }

end Sys2Proof.Machine
end

