-- ==== Sys2Proof/Machine/Environment.lean ====
section
/-! DEFINITION. The three environment steps that close the model (43_peripheral_interface.md R172 to R174). -/

namespace Sys2Proof.Machine

/-- HOST_SEND b: any byte at any time (R172). -/
def execHostSend (b : Byte) (s : State) : Result := perform (Instr.hostSend b).opid true (fun s => .ok (s.hostSends b)) s

/-- ADC_COMPLETE v: a value outside [0, 2^ADC_BITS) is refused (R79, R173). -/
def execAdcComplete (v : Sample) (s : State) : Result :=
  if inAdcRange s.params v then
    perform (Instr.adcComplete v).opid s.adcBusy (fun s => .ok (s.completeConversion v)) s
  else .refused (.word .adcRange)

/-- TX_SHIFT (R174). -/
def execTxShift (s : State) : Result := perform Instr.txShift.opid s.txFull (fun s => .ok s.shiftOut) s

end Sys2Proof.Machine
end

