-- ==== Sys2Proof/Machine/EventCapture.lean ====
section
/-! DEFINITION. The event-capture layer (41_event_capture.md): the cell operations the source names, the two interrupt
handlers, and the host bytes RX_ISR takes (30_encoding.md R73). A primitive executed on its own is performed with
FAULT = 0; the value it returns goes to the model's field ret (log 8). -/

namespace Sys2Proof.Machine

/-- SIGNAL_TRIGGER: SET(TRIG) (R125). -/
def execSignalTrigger (s : State) : Result := perform Instr.signalTrigger.opid true (fun s => .ok (s.setCell .trig)) s

/-- SIGNAL_CMD_S: SET(CMD_S) (R126). -/
def execSignalCmdS (s : State) : Result := perform Instr.signalCmdS.opid true (fun s => .ok (s.setCell .cmdS)) s

/-- SIGNAL_CMD_O: SET(CMD_O) (R127). -/
def execSignalCmdO (s : State) : Result := perform Instr.signalCmdO.opid true (fun s => .ok (s.setCell .cmdO)) s

/-- TAC of a cell, its value returned. -/
def State.testAndClearReturning (c : SignalCell) (s : State) : State :=
  (s.testAndClear c).2.returning (bitSample (s.testAndClear c).1)

/-- TAC_TRIGGER: return TAC(TRIG) (R128). -/
def execTacTrigger (s : State) : Result :=
  perform Instr.tacTrigger.opid true (fun s => .ok (s.testAndClearReturning .trig)) s

/-- TAC_CMD_S: return TAC(CMD_S) (R129). -/
def execTacCmdS (s : State) : Result :=
  perform Instr.tacCmdS.opid true (fun s => .ok (s.testAndClearReturning .cmdS)) s

/-- TAC_CMD_O: return TAC(CMD_O) (R130). -/
def execTacCmdO (s : State) : Result :=
  perform Instr.tacCmdO.opid true (fun s => .ok (s.testAndClearReturning .cmdO)) s

/-- CLEAR_TRIGGER: CLR(TRIG) (R131). -/
def execClearTrigger (s : State) : Result := perform Instr.clearTrigger.opid true (fun s => .ok (s.clearCell .trig)) s

/-- TRIG_ISR: an edge and its handler, enabled at any time (R132). -/
def execTrigIsr (s : State) : Result := perform Instr.trigIsr.opid true (fun s => .ok (s.setCell .trig)) s

/-- RX_ISR's pseudocode: the head of RXQ is read, which acknowledges the interrupt, and taken (R133). -/
def rxIsrBody (s : State) : Except FaultReason State :=
  match s.readByte with
  | .error e => .error e
  | .ok (b, a) => .ok (a.takeHostByte b)

/-- RX_ISR, enabled while a received byte is unread (R133). -/
def execRxIsr (s : State) : Result := perform Instr.rxIsr.opid s.rxPending rxIsrBody s

/-- HB_START, once RX_ISR has read it: SET(CMD_S) (R73, R126). -/
def execHbStart (s : State) : Result := perform Instr.hbStart.opid true (fun s => .ok (s.takeHostByte startByte)) s

/-- HB_CONT, once RX_ISR has read it: SET(CMD_O) (R73, R127). -/
def execHbCont (s : State) : Result := perform Instr.hbCont.opid true (fun s => .ok (s.takeHostByte contByte)) s

/-- HB_OTHER, once RX_ISR has read it: nothing, silently (R73, R133). -/
def execHbOther (b : Byte) (s : State) : Result := perform (Instr.hbOther b).opid true (fun s => .ok s) s

end Sys2Proof.Machine
end

