-- ==== Sys2Proof/Machine/SamplerTransmitter.lean ====
section
/-! DEFINITION. The producer and consumer steps of the Acquisition Buffer (42_sampler_transmitter.md): for each step its
pseudocode as a body, and its meaning, the body under MAIN's dispatch. -/

namespace Sys2Proof.Machine

/-- CONV_START's pseudocode (R141). -/
def convStartBody (s : State) : Except FaultReason State :=
  if s.params.n ≤ s.wr then .error .index
  else
    match s.startConversion with
    | .error e => .error e
    | .ok a => .ok { a with ph := PH.convWait }

/-- CONV_START (R141). -/
def execConvStart (s : State) : Result := performMain .convStart convStartBody s

/-- CONV_COLLECT's pseudocode (R142). -/
def convCollectBody (s : State) : Except FaultReason State :=
  match s.readConversionResult with
  | .error e => .error e
  | .ok (r, a) =>
    match memWrite a.wr r a with
    | .error e => .error e
    | .ok b =>
      let wr := increment (indexWidth b.params) b.wr
      .ok { b with wr := wr, ph := if wr = b.params.n then PH.sampPoll else PH.convStart }

/-- CONV_COLLECT (R142). -/
def execConvCollect (s : State) : Result := performMain .convCollect convCollectBody s

/-- What TX_LO and TX_HI read: the whole element at RD, once the buffer is full (R144, R145). -/
def elementToSend (s : State) : Except FaultReason Sample :=
  if s.wr ≠ s.params.n then .error .bufNotFull else memRead s.rd s

/-- TX_LO's pseudocode (R144). -/
def txLoBody (s : State) : Except FaultReason State :=
  match elementToSend s with
  | .error e => .error e
  | .ok v => .ok { s.sendByte (lowByte v) with ph := PH.txHi }

/-- TX_LO (R144). -/
def execTxLo (s : State) : Result := performMain .txLo txLoBody s

/-- TX_HI's pseudocode (R145). -/
def txHiBody (s : State) : Except FaultReason State :=
  match elementToSend s with
  | .error e => .error e
  | .ok v =>
    let a := s.sendByte (highByte v)
    let rd := increment (indexWidth a.params) a.rd
    .ok { a with rd := rd, ph := if rd = a.params.n then PH.xferPoll else PH.txLo }

/-- TX_HI (R145). -/
def execTxHi (s : State) : Result := performMain .txHi txHiBody s

end Sys2Proof.Machine
end

