-- ==== Sys2Proof/Machine/StateMachine.lean ====
section
/-! DEFINITION. RESET (70_reset_and_hazards.md R230) and the seven MAIN steps of the sequencer (40_state_machine.md): for each
step its pseudocode as a body, and its meaning, the body under MAIN's dispatch. -/

namespace Sys2Proof.Machine

/-- RESET: always enabled, in a faulted state too (R230). -/
def execReset (s : State) : Result := .next s.resetKeeping

/-- The Idle entry actions, performed only when ENTRY = 1 (R101, conflict C1). -/
def idleEntry (s : State) : State :=
  { (State.clearCell .trig { s with batch := 0 }).flushRx with entry := false }

/-- IDLE_TOP's pseudocode (R101). -/
def idleTopBody (s : State) : Except FaultReason State :=
  let a := s.setIndicator .idle
  let b := if a.entry then idleEntry a else a
  .ok { b with ph := PH.idleTest }

/-- IDLE_TOP (R101). -/
def execIdleTop (s : State) : Result := performMain .idleTop idleTopBody s

/-- IDLE_TEST's pseudocode: the branch and the clear use the one value read (R102, R238). -/
def idleTestBody (s : State) : Except FaultReason State :=
  let (t, a) := s.testAndClear .trig
  .ok { a with ph := if t then PH.debounce else PH.top }

/-- IDLE_TEST (R102). -/
def execIdleTest (s : State) : Result := performMain .idleTest idleTestBody s

/-- DEBOUNCE_DONE's pseudocode (R104). -/
def debounceDoneBody (s : State) : Except FaultReason State :=
  .ok ((s.clearCell .trig).goto ST.sampling PH.top)

/-- DEBOUNCE_DONE (R104). -/
def execDebounceDone (s : State) : Result := performMain .debounceDone debounceDoneBody s

/-- SAMP_TOP's pseudocode (R105). -/
def sampTopBody (s : State) : Except FaultReason State :=
  .ok { s.setIndicator .sampling with wr := 0, ph := PH.convStart }

/-- SAMP_TOP (R105). -/
def execSampTop (s : State) : Result := performMain .sampTop sampTopBody s

/-- SAMP_POLL's pseudocode (R106). -/
def sampPollBody (s : State) : Except FaultReason State :=
  if s.wr ≠ s.params.n then .error .bufNotFull
  else
    let (c, a) := s.testAndClear .cmdS
    if c then .ok (a.goto ST.transfer PH.top)
    else .ok { a.goto ST.idle PH.top with entry := true }

/-- SAMP_POLL (R106). -/
def execSampPoll (s : State) : Result := performMain .sampPoll sampPollBody s

/-- XFER_TOP's pseudocode (R107). -/
def xferTopBody (s : State) : Except FaultReason State :=
  if s.wr ≠ s.params.n then .error .bufNotFull
  else if s.params.m ≤ s.batch then .error .batch
  else .ok { s.setIndicator .transfer with rd := 0, ph := PH.txLo }

/-- XFER_TOP (R107). -/
def execXferTop (s : State) : Result := performMain .xferTop xferTopBody s

/-- XFER_POLL's pseudocode: BATCH is incremented before the check (R108). -/
def xferPollBody (s : State) : Except FaultReason State :=
  if s.params.m ≤ s.batch then .error .batch
  else
    let b := { s with batch := increment (batchWidth s.params) s.batch }
    let (c, a) := b.testAndClear .cmdO
    if !c then .ok { a.goto ST.idle PH.top with entry := true }
    else if a.batch = a.params.m then .ok { a.goto ST.idle PH.top with entry := true }
    else .ok (a.goto ST.sampling PH.top)

/-- XFER_POLL (R108). -/
def execXferPoll (s : State) : Result := performMain .xferPoll xferPollBody s

end Sys2Proof.Machine
end

