-- ==== Sys2Proof/Machine/Composite.lean ====
section
/-! DEFINITION. The three composite primitives, TICK (40_state_machine.md R100), FILL and SEND (42_sampler_transmitter.md
R140, R143): sequences of MAIN steps. Between two of their MAIN steps any steps of the other agents may fall (R100): a
FREE VALUE says which (log 9). Where MAIN waits, the step it waits for comes if ADC_COMPLETES or TX_FAIR of
00_scope.md R11 is granted; else, where no free step brings it, MAIN waits without end (R100, R240, R245; log 9). -/

namespace Sys2Proof.Machine

/-- One operation after another; a model fault ends the sequence, since no step is enabled after it (R201). -/
def andThen (r : Result) (k : State → Result) : Result :=
  match r with
  | .next t => if t.fault.isSome then .next t else k t
  | .fault e => .fault e
  | .refused e => .refused e

/-- The steps of the agents other than MAIN (00_scope.md R9). -/
inductive OtherStep where
  | trigIsr
  | rxIsr
  | hostSend (b : Byte)
  | adcComplete (v : Sample)
  | txShift
  deriving DecidableEq, Repr

/-- The operation it is. -/
def OtherStep.toInstr : OtherStep → Instr
  | .trigIsr => .trigIsr
  | .rxIsr => .rxIsr
  | .hostSend b => .hostSend b
  | .adcComplete v => .adcComplete v
  | .txShift => .txShift

/-- Its meaning. -/
def OtherStep.run (o : OtherStep) (s : State) : Result :=
  match o with
  | .trigIsr => execTrigIsr s
  | .rxIsr => execRxIsr s
  | .hostSend b => execHostSend b s
  | .adcComplete v => execAdcComplete v s
  | .txShift => execTxShift s

/-- Whether the agent takes the step at all: a converter or a transmitter that never answers takes none (R240, R245). -/
def OtherStep.allowed (p : Config.Params) : OtherStep → Bool
  | .trigIsr => true
  | .rxIsr => true
  | .hostSend _ => true
  | .adcComplete _ => p.adcAnswer != .never
  | .txShift => p.txAnswer != .never

/-- The other agents' enabled steps, their operands those of the choice (R172, R173). -/
def otherCandidates (c : Config.Choice) (s : State) : List OtherStep :=
  [.trigIsr, .rxIsr, .hostSend c.byte, .adcComplete (boundToAdc s.params c.value), .txShift].filter
    fun o => o.allowed s.params && enabled o.toInstr s

/-- The step of another agent that a choice names, performed. -/
def otherStep (c : Config.Choice) (s : State) : State :=
  match (otherCandidates c s)[c.pick % (otherCandidates c s).length]? with
  | none => s
  | some o =>
    match o.run s with
    | .next t => t
    | .fault _ => s
    | .refused _ => s

/-- A list of choices, one step each. -/
def otherSteps : List Config.Choice → State → State
  | [], s => s
  | c :: rest, s => otherSteps rest (otherStep c s)

/-- The steps that fall before the next MAIN step: a FREE VALUE (log 9). -/
def interfere (s : State) : State :=
  otherSteps (Config.freeInterference s.draws) { s with draws := s.draws + 1 }

/-- The wait of CONV_COLLECT for ADC_DONE = 1: with ADC_COMPLETES granted an ADC_COMPLETE ends it, its value free in
[0, 2^ADC_BITS) (R173, R11); without, it never ends (R240). -/
def awaitConversion (s : State) : Result :=
  if s.adcDone then .next s
  else if s.params.adcAnswer == .assured && s.adcBusy then
    .next { s.completeConversion (boundToAdc s.params (Config.freeConversion s.draws)) with draws := s.draws + 1 }
  else .fault (.waitsForever MainStep.convCollect.toInstr.opid)

/-- The wait for TX_FULL = 0 of the MAIN step m, TX_LO or TX_HI: with TX_FAIR granted a TX_SHIFT ends it (R165, R11);
without, it never ends (R245). Away from m's control point MAIN does not wait. -/
def awaitTransmitter (m : MainStep) (s : State) : Result :=
  if !s.txFull || m.control != (s.st, s.ph) then .next s
  else if s.params.txAnswer == .assured then .next s.shiftOut
  else .fault (.waitsForever m.toInstr.opid)

/-- CONV_START ; CONV_COLLECT, with the other agents' steps between (R140). -/
def fillElement (s : State) : Result :=
  andThen (execConvStart (interfere s)) fun a => andThen (awaitConversion (interfere a)) execConvCollect

/-- TX_LO, once the transmitter is ready for it. -/
def sendLow (s : State) : Result := andThen (awaitTransmitter .txLo s) execTxLo

/-- TX_HI, once the transmitter is ready for it. -/
def sendHigh (s : State) : Result := andThen (awaitTransmitter .txHi s) execTxHi

/-- TX_LO ; TX_HI, with the other agents' steps between (R143). -/
def sendElement (s : State) : Result := andThen (sendLow (interfere s)) fun a => sendHigh (interfere a)

/-- `repeat k times`. -/
def repeatTimes : Nat → (State → Result) → State → Result
  | 0, _, s => .next s
  | k + 1, f, s => andThen (f s) fun t => repeatTimes k f t

/-- The body of FILL: N times CONV_START ; CONV_COLLECT (R140). -/
def fillBody (s : State) : Result := repeatTimes s.params.n fillElement s

/-- The body of SEND: N times TX_LO ; TX_HI (R143). -/
def sendBody (s : State) : Result := repeatTimes s.params.n sendElement s

/-- FILL: it starts where SAMP_TOP has left MAIN (R140). -/
def execFill (s : State) : Result :=
  if s.fault.isNone && s.st == ST.sampling && s.ph == PH.convStart then fillBody s
  else .fault (.notEnabled Instr.fill.opid)

/-- SEND: it starts where XFER_TOP has left MAIN (R143). -/
def execSend (s : State) : Result :=
  if s.fault.isNone && s.st == ST.transfer && s.ph == PH.txLo then sendBody s
  else .fault (.notEnabled Instr.send.opid)

/-- The tick of IDLE: IDLE_TOP ; IDLE_TEST ; DEBOUNCE_DONE if the test returned 1 (R100). -/
def idleTick (s : State) : Result :=
  andThen (execIdleTop s) fun a =>
    andThen (execIdleTest (interfere a)) fun b =>
      if b.ph = PH.debounce then execDebounceDone (interfere b) else .next b

/-- The tick of SAMPLING: SAMP_TOP ; FILL ; SAMP_POLL (R100). -/
def samplingTick (s : State) : Result :=
  andThen (execSampTop s) fun a => andThen (fillBody a) fun b => execSampPoll (interfere b)

/-- The tick of TRANSFER: XFER_TOP ; SEND ; XFER_POLL (R100). -/
def transferTick (s : State) : Result :=
  andThen (execXferTop s) fun a => andThen (sendBody a) fun b => execXferPoll (interfere b)

/-- TICK: one iteration of the control loop, from PH_TOP to PH_TOP, by ST at its start (R100). The reserved ST code makes
MAIN's dispatch raise BadControl (R112, log 6). -/
def execTick (s : State) : Result :=
  if s.fault.isNone && s.ph == PH.top then
    if s.st = ST.idle then idleTick s
    else if s.st = ST.sampling then samplingTick s
    else if s.st = ST.transfer then transferTick s
    else .next (s.raiseFault .badControl Instr.tick.opid)
  else .fault (.notEnabled Instr.tick.opid)

end Sys2Proof.Machine
end

