-- ==== Sys2Proof/Machine/Peripheral.lean ====
section
/-! DEFINITION. The contract operations of the peripherals, each executed on its own (43_peripheral_interface.md R162 to
R171). Every guard also requires FAULT = 0; a returned value goes to the model's field ret (log 8), and a
model fault raised by a primitive on its own records that primitive's opid (DESIGN CHOICE, log 13). -/

namespace Sys2Proof.Machine

/-- START_CONVERSION (R162). DESIGN CHOICE (log 13): on its own, its AdcBusy records its own opid, 0x50. -/
def execStartConversion (s : State) : Result :=
  perform Instr.startConversion.opid true State.startConversion s

/-- IS_CONVERSION_DONE: return ADC_DONE (R163). -/
def execIsConversionDone (s : State) : Result :=
  perform Instr.isConversionDone.opid true (fun s => .ok (s.returning (bitSample s.adcDone))) s

/-- readConversionResult(), its result returned (R164). -/
def readConversionResultReturning (s : State) : Except FaultReason State :=
  match s.readConversionResult with
  | .error e => .error e
  | .ok (r, a) => .ok (a.returning r)

/-- READ_CONVERSION_RESULT (R164). DESIGN CHOICE (log 13): on its own, its AdcNotDone records its own opid, 0x52. -/
def execReadConversionResult (s : State) : Result :=
  perform Instr.readConversionResult.opid true readConversionResultReturning s

/-- SEND_BYTE b: it waits for TX_FULL = 0, which is its guard when it stands alone (R165). -/
def execSendByte (b : Byte) (s : State) : Result :=
  perform (Instr.sendByte b).opid (!s.txFull) (fun s => .ok (s.sendByte b)) s

/-- RECEIVED_BYTE_AVAILABLE: return (RXQ != []) (R166). -/
def execReceivedByteAvailable (s : State) : Result :=
  perform Instr.receivedByteAvailable.opid true (fun s => .ok (s.returning (bitSample s.rxPending))) s

/-- readByte(), its byte returned (R167). -/
def readByteReturning (s : State) : Except FaultReason State :=
  match s.readByte with
  | .error e => .error e
  | .ok (b, a) => .ok (a.returning (byteSample b))

/-- READ_BYTE (R167). DESIGN CHOICE (log 13): on its own, its RxEmpty records its own opid, 0x55. -/
def execReadByte (s : State) : Result := perform Instr.readByte.opid true readByteReturning s

/-- SET_INDICATOR p: IND <- p (R168). -/
def execSetIndicator (p : Indicator) (s : State) : Result :=
  perform (Instr.setIndicator p).opid true (fun s => .ok (s.setIndicator p)) s

/-- FLUSH_RX: RXQ <- [] (R169). -/
def execFlushRx (s : State) : Result := perform Instr.flushRx.opid true (fun s => .ok s.flushRx) s

/-- ON_EDGE_INTERRUPT: registration has happened before the first state; no model-visible effect (R170). -/
def execOnEdgeInterrupt (s : State) : Result := perform Instr.onEdgeInterrupt.opid true (fun s => .ok s) s

/-- ON_BYTE_RECEIVED_INTERRUPT: no model-visible effect (R171). -/
def execOnByteReceivedInterrupt (s : State) : Result :=
  perform Instr.onByteReceivedInterrupt.opid true (fun s => .ok s) s

end Sys2Proof.Machine
end

