-- ==== Sys2Proof/Machine/Dispatch.lean ====
section
/-! DEFINITION. The one meaning of each operation: exec, one arm per constructor of Instr. -/

namespace Sys2Proof.Machine

def exec (i : Instr) (s : State) : Host.Outcome State Fault Refusal :=
  match i with
  | .reset => Sys2Proof.Machine.execReset s
  | .idleTop => Sys2Proof.Machine.execIdleTop s
  | .idleTest => Sys2Proof.Machine.execIdleTest s
  | .debounceDone => Sys2Proof.Machine.execDebounceDone s
  | .sampTop => Sys2Proof.Machine.execSampTop s
  | .sampPoll => Sys2Proof.Machine.execSampPoll s
  | .xferTop => Sys2Proof.Machine.execXferTop s
  | .xferPoll => Sys2Proof.Machine.execXferPoll s
  | .convStart => Sys2Proof.Machine.execConvStart s
  | .convCollect => Sys2Proof.Machine.execConvCollect s
  | .txLo => Sys2Proof.Machine.execTxLo s
  | .txHi => Sys2Proof.Machine.execTxHi s
  | .trigIsr => Sys2Proof.Machine.execTrigIsr s
  | .rxIsr => Sys2Proof.Machine.execRxIsr s
  | .hostSend b => Sys2Proof.Machine.execHostSend b s
  | .adcComplete v => Sys2Proof.Machine.execAdcComplete v s
  | .txShift => Sys2Proof.Machine.execTxShift s
  | .tick => Sys2Proof.Machine.execTick s
  | .fill => Sys2Proof.Machine.execFill s
  | .send => Sys2Proof.Machine.execSend s
  | .signalTrigger => Sys2Proof.Machine.execSignalTrigger s
  | .signalCmdS => Sys2Proof.Machine.execSignalCmdS s
  | .signalCmdO => Sys2Proof.Machine.execSignalCmdO s
  | .tacTrigger => Sys2Proof.Machine.execTacTrigger s
  | .tacCmdS => Sys2Proof.Machine.execTacCmdS s
  | .tacCmdO => Sys2Proof.Machine.execTacCmdO s
  | .clearTrigger => Sys2Proof.Machine.execClearTrigger s
  | .startConversion => Sys2Proof.Machine.execStartConversion s
  | .isConversionDone => Sys2Proof.Machine.execIsConversionDone s
  | .readConversionResult => Sys2Proof.Machine.execReadConversionResult s
  | .sendByte b => Sys2Proof.Machine.execSendByte b s
  | .receivedByteAvailable => Sys2Proof.Machine.execReceivedByteAvailable s
  | .readByte => Sys2Proof.Machine.execReadByte s
  | .setIndicator p => Sys2Proof.Machine.execSetIndicator p s
  | .flushRx => Sys2Proof.Machine.execFlushRx s
  | .onEdgeInterrupt => Sys2Proof.Machine.execOnEdgeInterrupt s
  | .onByteReceivedInterrupt => Sys2Proof.Machine.execOnByteReceivedInterrupt s
  | .hbStart => Sys2Proof.Machine.execHbStart s
  | .hbCont => Sys2Proof.Machine.execHbCont s
  | .hbOther b => Sys2Proof.Machine.execHbOther b s

end Sys2Proof.Machine
end

