-- ==== Sys2Proof/Machine/Fetch.lean ====
section
/-! DEFINITION. Which operation comes next: the next trace word, through the trace decoder (30_encoding.md R77 to R80), or,
with no word left, a free choice among the enabled operations (00_scope.md R10); and where a word is placed so that it
comes next. -/

namespace Sys2Proof.Machine

/-- Every operation a trace may hold, the free operands those of a choice (R76, R78, R172, R173). -/
def schedulableInstrs (c : Config.Choice) (p : Config.Params) : List Instr :=
  [.reset, .idleTop, .idleTest, .debounceDone, .sampTop, .sampPoll, .xferTop, .xferPoll, .convStart, .convCollect,
    .txLo, .txHi, .trigIsr, .rxIsr, .hostSend c.byte, .adcComplete (boundToAdc p c.value), .txShift]

/-- The operations enabled now. RESET always is, so the list is never empty (R230). -/
def candidates (c : Config.Choice) (s : State) : List Instr :=
  (schedulableInstrs c s.params).filter fun i => enabled i s

/-- The operation the choice names among the enabled ones. -/
def chosen (c : Config.Choice) (s : State) : Instr :=
  (candidates c s).getD (c.pick % (candidates c s).length) .reset

/-- The next operation, and the state it is performed in: a machine of excluded parameters is rejected (R2, R3, R6, R7);
a trace word is taken off the trace and decoded (R77); without one, any enabled operation may be next (R10), a FREE
VALUE (log 3). -/
def fetch (s : State) : Except Refusal (Instr × State) :=
  if s.params.Admitted then
    match s.trace with
    | w :: rest =>
      match decodeTrace s.params.adcBits w with
      | .ok i => .ok (i, { s with trace := rest })
      | .error e => .error (.word e)
    | [] => .ok (chosen (Config.freeSchedule s.draws) s, { s with draws := s.draws + 1 })
  else .error .badParameters

/-- The state with the bits an operation's guard tests set so that the guard holds: the control point of a MAIN step
(10_state.md R40: it stands where a program counter stands), what it waits for, and FAULT = 0. -/
def State.selecting (s : State) (i : Instr) : State :=
  match i with
  | .idleTop => { s with st := ST.idle, ph := PH.top, fault := none }
  | .idleTest => { s with st := ST.idle, ph := PH.idleTest, fault := none }
  | .debounceDone => { s with st := ST.idle, ph := PH.debounce, fault := none }
  | .sampTop => { s with st := ST.sampling, ph := PH.top, fault := none }
  | .sampPoll => { s with st := ST.sampling, ph := PH.sampPoll, fault := none }
  | .xferTop => { s with st := ST.transfer, ph := PH.top, fault := none }
  | .xferPoll => { s with st := ST.transfer, ph := PH.xferPoll, fault := none }
  | .convStart => { s with st := ST.sampling, ph := PH.convStart, fault := none }
  | .convCollect => { s with st := ST.sampling, ph := PH.convWait, adcDone := true, fault := none }
  | .txLo => { s with st := ST.transfer, ph := PH.txLo, txFull := false, fault := none }
  | .txHi => { s with st := ST.transfer, ph := PH.txHi, txFull := false, fault := none }
  | .trigIsr => { s with fault := none }
  | .rxIsr => { s with rxq := if s.rxq.isEmpty then [0#8] else s.rxq, fault := none }
  | .hostSend _ => { s with fault := none }
  | .adcComplete _ => { s with adcBusy := true, fault := none }
  | .txShift => { s with txFull := true, fault := none }
  | _ => s

/-- A trace word placed where the next step takes it, with the operation it names selected. -/
def State.withTraceWord (s : State) (w : TraceWord) : State :=
  match decodeTrace s.params.adcBits w with
  | .ok i => { s.selecting i with trace := w :: s.trace }
  | .error _ => { s with trace := w :: s.trace }

/-- A host byte placed where the machine takes host bytes: at the head of RXQ, with the RX_ISR that takes it next. -/
def State.withHostByte (s : State) (b : Byte) : State :=
  { s with rxq := b :: s.rxq, fault := none, trace := encodeWord .rxIsr :: s.trace }

end Sys2Proof.Machine
end

