-- ==== Sys2Proof/Machine/Step.lean ====
section
/-! DEFINITION. One step of the machine: the next operation, performed (00_scope.md R10). -/

namespace Sys2Proof.Machine

/-- One step: the operation fetch gives, executed in the state fetch leaves. -/
def step (s : State) : Host.Outcome State Fault Refusal :=
  match fetch s with
  | .ok (i, t) => exec i t
  | .error r => .refused r

/-- s with an opcode-table row's word placed so that the next step runs it: a row of 8 bits is a host byte, taken by the
RX_ISR scheduled for it; any other is a trace word. -/
def State.withFetchWord (s : State) (nbits w : Nat) : State :=
  if nbits ≤ 8 then s.withHostByte (BitVec.ofNat 8 w) else s.withTraceWord (BitVec.ofNat 24 w)

end Sys2Proof.Machine
end

