-- ==== Sys2Proof/Machine/Assembler.lean ====
section
/-! DEFINITION. The trace assembler of 30_encoding.md R81: one operation a line, `MNEMONIC [operand]`, comments from `;`,
and the five pseudo-operations. -/

namespace Sys2Proof.Machine

/-- The five pseudo-operations (R81). -/
inductive PseudoOp where
  | hostCmd (b : Byte)
  | sample (v : Sample)
  | emit
  | idleTick
  | triggeredTick
  deriving DecidableEq, Repr

/-- The fixed sequence a pseudo-operation expands to (R81). -/
def PseudoOp.expand : PseudoOp → List Instr
  | .hostCmd b => [.hostSend b, .rxIsr]
  | .sample v => [.convStart, .adcComplete v, .convCollect]
  | .emit => [.txLo, .txShift, .txHi, .txShift]
  | .idleTick => [.idleTop, .idleTest]
  | .triggeredTick => [.idleTop, .idleTest, .debounceDone]

/-- Why a line does not assemble. -/
inductive AsmError where
  | unknownMnemonic
  | badOperand
  deriving DecidableEq, Repr

/-- A line's tokens: separated by spaces and tabs, a quoted character kept whole, a comment dropped (R81). -/
def asmTokens : List Char → List Char → List (List Char)
  | '\'' :: c :: '\'' :: rest, acc => asmTokens rest (acc ++ ['\'', c, '\''])
  | ';' :: _, acc => if acc.isEmpty then [] else [acc]
  | c :: rest, acc =>
    if c = ' ' || c = '\t' then (if acc.isEmpty then asmTokens rest [] else acc :: asmTokens rest [])
    else asmTokens rest (acc ++ [c])
  | [], acc => if acc.isEmpty then [] else [acc]

/-- A hexadecimal digit. -/
def hexDigit (c : Char) : Option Nat :=
  if '0' ≤ c ∧ c ≤ '9' then some (c.toNat - '0'.toNat)
  else if 'a' ≤ c ∧ c ≤ 'f' then some (c.toNat - 'a'.toNat + 10)
  else if 'A' ≤ c ∧ c ≤ 'F' then some (c.toNat - 'A'.toNat + 10)
  else none

/-- A number from its hexadecimal digits, most significant first. -/
def hexNumber : Nat → List Char → Option Nat
  | n, [] => some n
  | n, c :: rest =>
    match hexDigit c with
    | none => none
    | some d => hexNumber (16 * n + d) rest

/-- An operand: `0x` and at least one hexadecimal digit (R81). -/
def hexOperand : List Char → Option Nat
  | '0' :: 'x' :: d :: rest => hexNumber 0 (d :: rest)
  | _ => none

/-- A byte operand: hexadecimal, or a quoted character, meaning its ASCII code (R81). -/
def byteOperand (t : List Char) : Option Byte :=
  match t with
  | ['\'', c, '\''] => if c.toNat < 128 then some (BitVec.ofNat 8 c.toNat) else none
  | _ =>
    match hexOperand t with
    | none => none
    | some n => if n < 2 ^ 8 then some (BitVec.ofNat 8 n) else none

/-- A sample operand: hexadecimal (R81). -/
def sampleOperand (t : List Char) : Option Sample :=
  match hexOperand t with
  | none => none
  | some n => if n < 2 ^ 16 then some (BitVec.ofNat 16 n) else none

/-- The mnemonics with no operand: the reset and the steps a trace may hold (R78), and three pseudo-operations. -/
def plainMnemonics : List (String × List Instr) :=
  [("RESET", [.reset]), ("IDLE_TOP", [.idleTop]), ("IDLE_TEST", [.idleTest]), ("DEBOUNCE_DONE", [.debounceDone]),
    ("SAMP_TOP", [.sampTop]), ("SAMP_POLL", [.sampPoll]), ("XFER_TOP", [.xferTop]), ("XFER_POLL", [.xferPoll]),
    ("CONV_START", [.convStart]), ("CONV_COLLECT", [.convCollect]), ("TX_LO", [.txLo]), ("TX_HI", [.txHi]),
    ("TRIG_ISR", [.trigIsr]), ("RX_ISR", [.rxIsr]), ("TX_SHIFT", [.txShift]),
    ("EMIT", PseudoOp.emit.expand), ("IDLE_TICK", PseudoOp.idleTick.expand),
    ("TRIGGERED_TICK", PseudoOp.triggeredTick.expand)]

/-- The operations of one operand-less line. -/
def asmPlain (m : List Char) : Except AsmError (List Instr) :=
  match plainMnemonics.find? fun r => r.1.toList == m with
  | none => .error .unknownMnemonic
  | some r => .ok r.2

/-- The operations of one line with an operand. -/
def asmOperand (m t : List Char) : Except AsmError (List Instr) :=
  if m = "HOST_SEND".toList then
    match byteOperand t with
    | none => .error .badOperand
    | some b => .ok [.hostSend b]
  else if m = "HOST_CMD".toList then
    match byteOperand t with
    | none => .error .badOperand
    | some b => .ok (PseudoOp.hostCmd b).expand
  else if m = "ADC_COMPLETE".toList then
    match sampleOperand t with
    | none => .error .badOperand
    | some v => .ok [.adcComplete v]
  else if m = "SAMPLE".toList then
    match sampleOperand t with
    | none => .error .badOperand
    | some v => .ok (PseudoOp.sample v).expand
  else .error .unknownMnemonic

/-- The operations one line stands for; a blank or comment line stands for none. -/
def asmLine (line : String) : Except AsmError (List Instr) :=
  match asmTokens line.toList [] with
  | [] => .ok []
  | [m] => asmPlain m
  | [m, t] => asmOperand m t
  | _ => .error .badOperand

/-- A trace's words, line by line. -/
def assemble : List String → Except AsmError (List TraceWord)
  | [] => .ok []
  | line :: rest =>
    match asmLine line with
    | .error e => .error e
    | .ok ops =>
      match assemble rest with
      | .error e => .error e
      | .ok ws => .ok (ops.map encodeWord ++ ws)

end Sys2Proof.Machine
end

