-- ==== Sys2Proof/Machine/Ports.lean ====
section
/-! DEFINITION. The block's ports and clock domains (43_peripheral_interface.md R160, R161). A port is a name for an
interaction; the level ports are functions of the state. -/

namespace Sys2Proof.Machine

/-- The fifteen ports (R160). -/
inductive Port where
  | clk
  | rst
  | trigIn
  | rxAvail
  | rxData
  | rxPop
  | rxFlush
  | adcStart
  | adcDone
  | adcData
  | adcAck
  | txReady
  | txData
  | txWrite
  | ind
  deriving DecidableEq, Repr

/-- A port's direction (R160). -/
inductive PortDirection where
  | input
  | output
  deriving DecidableEq, Repr

/-- The two clock domains (R161). -/
inductive ClockDomain where
  | main
  | async
  deriving DecidableEq, Repr

/-- The direction column of R160. -/
def Port.direction : Port → PortDirection
  | .clk => .input
  | .rst => .input
  | .trigIn => .input
  | .rxAvail => .input
  | .rxData => .input
  | .rxPop => .output
  | .rxFlush => .output
  | .adcStart => .output
  | .adcDone => .input
  | .adcData => .input
  | .adcAck => .output
  | .txReady => .input
  | .txData => .output
  | .txWrite => .output
  | .ind => .output

/-- The width column of R160. -/
def Port.width : Port → Nat
  | .clk => 1
  | .rst => 1
  | .trigIn => 1
  | .rxAvail => 1
  | .rxData => 8
  | .rxPop => 1
  | .rxFlush => 1
  | .adcStart => 1
  | .adcDone => 1
  | .adcData => 16
  | .adcAck => 1
  | .txReady => 1
  | .txData => 8
  | .txWrite => 1
  | .ind => 2

/-- The domain column of R160: only the trigger input is asynchronous. -/
def Port.domain (p : Port) : ClockDomain := if p = .trigIn then .async else .main

/-- The operations a port is the face of, the last column of R160: the clock has none, the trigger input two, and an
operation with an operand is meant at every operand. -/
def Port.faces (p : Port) (i : Instr) : Bool :=
  match p, i with
  | .rst, .reset => true
  | .trigIn, .onEdgeInterrupt => true
  | .trigIn, .trigIsr => true
  | .rxAvail, .receivedByteAvailable => true
  | .rxData, .readByte => true
  | .rxPop, .readByte => true
  | .rxFlush, .flushRx => true
  | .adcStart, .startConversion => true
  | .adcDone, .isConversionDone => true
  | .adcData, .readConversionResult => true
  | .adcAck, .readConversionResult => true
  | .txReady, .sendByte _ => true
  | .txData, .sendByte _ => true
  | .txWrite, .sendByte _ => true
  | .ind, .setIndicator _ => true
  | _, _ => false

/-- What an edge on trig_in is: of polarity TRIG_EDGE, one TRIG_ISR (R160, R132, R175); of the other, no event. -/
def triggerEdge (p : Config.Params) (edge : Config.TrigEdge) : Option Instr :=
  if edge = p.trigEdge then some .trigIsr else none

/-- The level a port shows (R160): rx_avail, rx_data, adc_done, adc_data, tx_ready and ind, as numbers; none where the
spec gives the port no level (clk, rst, trig_in, the strobes, and tx_data, a byte only while it is sent) or the state
element holds ⊥. DESIGN CHOICE (log 14): none too for rx_data while RXQ is empty, where head(RXQ) is undefined. -/
def Port.level (p : Port) (s : State) : Option Nat :=
  match p with
  | .rxAvail => some s.rxPending.toNat
  | .rxData => s.rxq.head?.map BitVec.toNat
  | .adcDone => some s.adcDone.toNat
  | .adcData => s.adcRes.map BitVec.toNat
  | .txReady => some (!s.txFull).toNat
  | .ind => s.ind.map BitVec.toNat
  | .clk => none
  | .rst => none
  | .trigIn => none
  | .rxPop => none
  | .rxFlush => none
  | .adcStart => none
  | .adcAck => none
  | .txData => none
  | .txWrite => none

end Sys2Proof.Machine
end

