-- ==== Sys2Proof/Safety.lean ====
section
/-! DEFINITION. What counts as a safe state, in the terms statements use: the invariants of 10_state.md R41 with what makes
them hold step by step (70_reset_and_hazards.md R236); the transition relation of 00_scope.md R10; its runs, the fairness
assumptions of R11, and the observation of R12. -/

namespace Sys2Proof.Machine

/-- BUF[0..k-1] are all written. -/
abbrev State.Filled (s : State) (k : Nat) : Prop := ∀ i < k, (Memory.read s.buf i).isSome = true

/-- R41, item 1. -/
abbrev BatchBounded (s : State) : Prop := s.batch ≤ s.params.m
/-- R41, item 2. -/
abbrev IndicesBounded (s : State) : Prop := s.wr ≤ s.params.n ∧ s.rd ≤ s.params.n
/-- R41, item 3. -/
abbrev TransferFilled (s : State) : Prop := s.st = ST.transfer → s.wr = s.params.n ∧ s.Filled s.params.n
/-- R41, item 4. -/
abbrev TransferBatchBelow (s : State) : Prop := s.st = ST.transfer → s.ph = PH.top → s.batch < s.params.m
/-- R41, item 5. -/
abbrev IdleEntryDone (s : State) : Prop := s.st = ST.idle → s.ph ≠ PH.top → s.entry = false
/-- R41, item 6. -/
abbrev QueueBounded (s : State) : Prop := s.rxq.length ≤ s.params.rxDepth
/-- R41, item 7. -/
abbrev ConverterExclusive (s : State) : Prop := ¬(s.adcBusy = true ∧ s.adcDone = true)
/-- R41, item 8. -/
abbrev ConverterOnlyInWait (s : State) : Prop :=
  s.adcBusy = true ∨ s.adcDone = true → s.st = ST.sampling ∧ s.ph = PH.convWait

/-- The eight invariants of R41. -/
abbrev R41 (s : State) : Prop :=
  BatchBounded s ∧ IndicesBounded s ∧ TransferFilled s ∧ TransferBatchBelow s ∧ IdleEntryDone s ∧ QueueBounded s ∧
    ConverterExclusive s ∧ ConverterOnlyInWait s

/-- What R236's argument adds of BATCH: an episode that has begun has BATCH = 0 in Idle, below M elsewhere. -/
abbrev EpisodeBatch (s : State) : Prop :=
  (s.st = ST.idle → s.entry = false → s.batch = 0) ∧ (s.st ≠ ST.idle → s.batch < s.params.m)

/-- What R236's argument adds of the fill: which elements a fill has written, phase by phase. -/
abbrev FillProgress (s : State) : Prop :=
  s.st = ST.sampling →
    (s.ph = PH.convStart ∨ s.ph = PH.convWait → s.wr < s.params.n ∧ s.Filled s.wr) ∧
    (s.ph = PH.sampPoll → s.wr = s.params.n ∧ s.Filled s.params.n)

/-- What R236's argument adds of the send: RD behaves as WR does. -/
abbrev SendProgress (s : State) : Prop :=
  s.st = ST.transfer → s.ph = PH.txLo ∨ s.ph = PH.txHi → s.rd < s.params.n

/-- While MAIN waits for a conversion there is one to wait for. -/
abbrev ConverterLive (s : State) : Prop :=
  s.st = ST.sampling → s.ph = PH.convWait → s.adcBusy = true ∨ s.adcDone = true

/-- Every result is a value of ADC_BITS bits, and a ready result is written (R6, R34). -/
abbrev ResultInRange (s : State) : Prop :=
  (∀ v ∈ s.adcRes, inAdcRange s.params v = true) ∧ (s.adcDone = true → s.adcRes.isSome = true)

/-- A full holding register holds a byte (R36). -/
abbrev HoldWritten (s : State) : Prop := s.txFull = true → s.txHold.isSome = true

/-- The buffer is in its canonical form, has no element at or beyond N, and holds values of ADC_BITS bits (R50, R75). -/
abbrev BufferWf (s : State) : Prop :=
  Memory.wf s.buf ∧ ∀ e ∈ s.buf, e.1 < s.params.n ∧ inAdcRange s.params e.2 = true

/-- IND never holds the reserved code (R72). -/
abbrev IndicatorLegal (s : State) : Prop := s.ind ≠ some 0b11#2

/-- The invariant of every run from reset: no fault, one of the eleven legal pairs, R41, and what R236's argument
carries along. -/
abbrev RunInvariant (s : State) : Prop :=
  s.params.Admitted ∧ s.fault = none ∧ s.legalControl = true ∧ R41 s ∧ EpisodeBatch s ∧ FillProgress s ∧
    SendProgress s ∧ ConverterLive s ∧ ResultInRange s ∧ HoldWritten s ∧ BufferWf s ∧ IndicatorLegal s

/-- The transition relation of R10: t is a state the operation i can give in s. On receive overflow both outcomes are
admitted (R172), whichever one the free value of the deterministic step is. -/
def Admits (s : State) (i : Instr) (t : State) : Prop :=
  exec i s = .next t ∨
    ∃ b d, i = .hostSend b ∧ s.fault = none ∧ s.params.rxDepth ≤ s.rxq.length ∧ t = s.receive d b

/-- A run: an infinite sequence of states and of the operations between them, each one a trace may hold (R10, R12, R78). -/
structure Run where
  state : Nat → State
  op : Nat → Instr
  schedulable : ∀ k, (op k).schedulable = true
  admitted : ∀ k, Admits (state k) (op k) (state (k + 1))

/-- MAIN_FAIR: a MAIN step that stays enabled is eventually taken (R11). -/
def Run.MainFair (r : Run) : Prop :=
  ∀ k (m : MainStep), (∀ j ≥ k, m.enabled (r.state j) = true) → ∃ j ≥ k, r.op j = m.toInstr

/-- RX_ISR_FAIR: while the receive queue is non-empty, RX_ISR is eventually taken (R11). -/
def Run.RxIsrFair (r : Run) : Prop :=
  ∀ k, (∀ j ≥ k, (r.state j).rxPending = true) → ∃ j ≥ k, r.op j = .rxIsr

/-- TX_FAIR: while the transmit holding register is full, TX_SHIFT is eventually taken (R11). -/
def Run.TxFair (r : Run) : Prop :=
  ∀ k, (∀ j ≥ k, (r.state j).txFull = true) → ∃ j ≥ k, r.op j = .txShift

/-- ADC_COMPLETES: while a conversion is in progress, ADC_COMPLETE is eventually taken (R11). -/
def Run.AdcCompletes (r : Run) : Prop :=
  ∀ k, (∀ j ≥ k, (r.state j).adcBusy = true) → ∃ j ≥ k, ∃ v, r.op j = .adcComplete v

/-- MAIN is at a tick boundary (R12, R21). -/
def State.atBoundary (s : State) : Bool := s.ph == PH.top

/-- What is observed of a state: HOST_OUT, IND, and the state itself at a tick boundary (R12). -/
structure Observation where
  hostOut : List Byte
  ind : Option (BitVec 2)
  boundary : Option State
  deriving DecidableEq, Repr

/-- The observation of R12. -/
def observe (s : State) : Observation :=
  { hostOut := s.hostOut, ind := s.ind, boundary := if s.atBoundary then some s else none }

/-- Every byte passed to sendByte, in order: those the host has, then the one still held (R64, R143). -/
def State.sentBytes (s : State) : List Byte :=
  s.hostOut ++ if s.txFull then s.txHold.toList else []

/-- The first k elements of the buffer, where they are written. -/
def State.elements (s : State) (k : Nat) : List Sample := (List.range k).filterMap (Memory.read s.buf)

end Sys2Proof.Machine
end

