-- ==== Sys2Proof/Certificates/Slice0/Obligations.lean ====
section
/-! DEFINITION. The statements for the provers. Each docstring names the rules of spec/ it formalises; OBLIGATIONS.json
holds their tiers and titles. A fault or a stuck outcome is named wherever a form ends in one. -/

open Sys2Proof Sys2Proof.Machine

/-- The operation is stuck: not enabled, not performed (R80). -/
abbrev StuckAt (i : Instr) (s : State) : Prop := exec i s = .fault (.notEnabled i.opid)

/-- The tick, fill or send waits without end, MAIN at its step of opid op (R100, R240, R245). -/
abbrev HangsAt (i : Instr) (s : State) (op : Opid) : Prop := exec i s = .fault (.waitsForever op)

/-- A model fault taken by the operation, writing nothing else (R201). -/
abbrev FaultsWith (i : Instr) (s : State) (r : FaultReason) : Prop :=
  exec i s = .next { s with fault := some ⟨r, i.opid⟩ }

/-- The operation's guard, which also requires FAULT = 0 (R14): elsewhere it is stuck, wherever (ST, PH) is legal (an
illegal pair is MAIN's BadControl, R112). -/
abbrev OnlyUnder (i : Instr) (guard : State → Prop) : Prop :=
  ∀ s : State, (s.fault ≠ none → StuckAt i s) ∧ (s.fault = none → s.legalControl = true → ¬ guard s → StuckAt i s)

/-! ## Encodings -/

/-- Words written out from R76 and R77 (and vectors V-EN-1 to V-EN-14) decode to the operation they stand for. -/
def Obligations.SpecWordsDecode : Prop :=
  decodeTrace 16 0x000000#24 = .ok .reset ∧ decodeTrace 16 0x010000#24 = .ok .idleTop ∧
    decodeTrace 16 0x090000#24 = .ok .convCollect ∧ decodeTrace 16 0x110000#24 = .ok .rxIsr ∧
    decodeTrace 16 0x200073#24 = .ok (.hostSend 0x73#8) ∧ decodeTrace 16 0x21ABCD#24 = .ok (.adcComplete 0xABCD#16) ∧
    decodeTrace 10 0x210400#24 = .error .adcRange ∧ decodeTrace 16 0x430000#24 = .error .primNotSchedulable ∧
    decodeWord 16 0x430000#24 = .ok .tacTrigger ∧ decode 16 (.link 0x6F#8) = .ok .hbCont

/-- R76, R77, R79: the trace decoder gives back every operation a trace may hold, at every operand its encoding admits. -/
def Obligations.TraceWordRoundTrip : Prop :=
  ∀ (bits : Nat) (i : Instr), i.schedulable = true → i.wellFormed bits = true → decodeTrace bits (encodeWord i) = .ok i

/-- R77 to R79: what the trace decoder accepts is an operation a trace may hold, well formed, and written as that word
alone. -/
def Obligations.TraceDecoderAcceptsOnlyItsWords : Prop :=
  ∀ (bits : Nat) (w : TraceWord) (i : Instr), decodeTrace bits w = .ok i →
    i.schedulable = true ∧ i.wellFormed bits = true ∧ encodeWord i = w

/-- R78: a word whose opid names a prim is refused, whatever its operand; the opids are those of the twenty prims. -/
def Obligations.PrimWordsRefused : Prop :=
  (∀ (bits : Nat) (op : Opid) (x : Sample),
    (0x30 ≤ op.toNat ∧ op.toNat ≤ 0x32 ∨ 0x40 ≤ op.toNat ∧ op.toNat ≤ 0x46 ∨ 0x50 ≤ op.toNat ∧ op.toNat ≤ 0x59) →
    decodeTrace bits (packWord op x) = .error .primNotSchedulable) ∧
  ∀ i : Instr, i.cls = .prim →
    0x30 ≤ i.opid.toNat ∧ i.opid.toNat ≤ 0x32 ∨ 0x40 ≤ i.opid.toNat ∧ i.opid.toNat ≤ 0x46 ∨
      0x50 ≤ i.opid.toNat ∧ i.opid.toNat ≤ 0x59

/-- R79, the decoder's part: unassigned opids, nonzero operands, HOST_SEND's high byte, ADC_COMPLETE's range. -/
def Obligations.IllegalWordsRefused : Prop :=
  ∀ (bits : Nat) (op : Opid) (x : Sample),
    ((0x0C ≤ op.toNat ∧ op.toNat ≤ 0x0F ∨ 0x12 ≤ op.toNat ∧ op.toNat ≤ 0x1F ∨ 0x23 ≤ op.toNat ∧ op.toNat ≤ 0x2F ∨
        0x33 ≤ op.toNat ∧ op.toNat ≤ 0x3F ∨ 0x47 ≤ op.toNat ∧ op.toNat ≤ 0x4F ∨ 0x5A ≤ op.toNat) →
      decodeTrace bits (packWord op x) = .error .noSuchOperation) ∧
    ((op.toNat ≤ 0x0B ∨ op = 0x10#8 ∨ op = 0x11#8 ∨ op = 0x22#8) → x ≠ 0#16 →
      decodeTrace bits (packWord op x) = .error .nonzeroOperand) ∧
    (op = 0x20#8 → highByte x ≠ 0#8 → decodeTrace bits (packWord op x) = .error .hostSendOperand) ∧
    (op = 0x21#8 → 2 ^ bits ≤ x.toNat → decodeTrace bits (packWord op x) = .error .adcRange)

/-- R73: RX_ISR takes a host byte by running the row its exact value decodes to, on the queue without it, in every ST. -/
def Obligations.RxIsrRunsTheHostByte : Prop :=
  (∀ b : Byte, decodeHostByte b = if b = 0x73#8 then .hbStart else if b = 0x6F#8 then .hbCont else .hbOther b) ∧
  ∀ (s : State) (b : Byte) (rest : List Byte), s.fault = none → s.rxq = b :: rest →
    exec .rxIsr s = exec (decodeHostByte b) { s with rxq := rest } ∧
      exec .rxIsr s =
        .next { s with
          rxq := rest
          cmdS := if b = 0x73#8 then true else s.cmdS
          cmdO := if b = 0x6F#8 then true else s.cmdO }

/-- R81: each pseudo-operation expands to its fixed sequence of trace words, for every operand. -/
def Obligations.PseudoOpsAssemble : Prop :=
  (∀ b : Byte, (PseudoOp.hostCmd b).expand.map encodeWord = [packWord 0x20#8 (b.setWidth 16), 0x110000#24]) ∧
  (∀ v : Sample, (PseudoOp.sample v).expand.map encodeWord = [0x080000#24, packWord 0x21#8 v, 0x090000#24]) ∧
  PseudoOp.emit.expand.map encodeWord = [0x0A0000#24, 0x220000#24, 0x0B0000#24, 0x220000#24] ∧
  PseudoOp.idleTick.expand.map encodeWord = [0x010000#24, 0x020000#24] ∧
  PseudoOp.triggeredTick.expand.map encodeWord = [0x010000#24, 0x020000#24, 0x030000#24]

/-! ## One step, and the schedule -/

/-- R77, R80: the next trace word, decoded, is the operation that runs, on the state with that word taken off the trace. -/
def Obligations.StepRunsTheDecodedWord : Prop :=
  ∀ (s : State) (w : TraceWord) (rest : List TraceWord) (i : Instr), s.params.Admitted → s.trace = w :: rest →
    decodeTrace s.params.adcBits w = .ok i → step s = exec i { s with trace := rest }

/-- R78, R79, R2, R3, R6, R7: a refused word is refused by step, and so is a machine of excluded parameters. -/
def Obligations.StepRefuses : Prop :=
  (∀ (s : State) (w : TraceWord) (rest : List TraceWord) (e : DecodeError), s.params.Admitted → s.trace = w :: rest →
    decodeTrace s.params.adcBits w = .error e → step s = .refused (.word e)) ∧
  ∀ s : State, ¬ s.params.Admitted → step s = .refused .badParameters

/-- R10, R80: a schedulable operation is performed exactly when it is enabled, and is stuck otherwise. -/
def Obligations.PerformedExactlyWhenEnabled : Prop :=
  ∀ (i : Instr) (s : State), i.schedulable = true → i.wellFormed s.params.adcBits = true →
    if enabled i s = true then ∃ t, exec i s = .next t else StuckAt i s

/-- R10 (the free schedule is log 3's): with no trace word left, step performs some enabled operation a trace may hold, and
so always answers a next state; its free operands keep the limits of R173. -/
def Obligations.FreeStepTakesAnEnabledOperation : Prop :=
  ∀ s : State, s.params.Admitted → s.trace = [] →
    ∃ i t, i.schedulable = true ∧ i.wellFormed s.params.adcBits = true ∧ enabled i s = true ∧
      step s = exec i { s with draws := s.draws + 1 } ∧ step s = .next t

/-- R111: no value of the three cells changes whether a MAIN step is enabled, and away from the three waiting steps the
control point alone decides. -/
def Obligations.SignalsNeverDisableMain : Prop :=
  (∀ (m : MainStep) (s : State) (a b c : Bool),
    m.enabled { s with trig := a, cmdS := b, cmdO := c } = m.enabled s) ∧
  ∀ (m : MainStep) (s : State), s.fault = none → (s.st, s.ph) = m.control →
    (m = .convCollect → s.adcDone = true) → (m = .txLo ∨ m = .txHi → s.txFull = false) →
    ∃ t, exec m.toInstr s = .next t

/-- R112: one MAIN step for each legal pair; any other is stuck there; an illegal pair makes MAIN raise BadControl
(which word stands for MAIN there is log 6's). -/
def Obligations.MainDispatch : Prop :=
  (∀ s : State, s.legalControl = true → ∃! m : MainStep, m.control = (s.st, s.ph)) ∧
  (∀ (m : MainStep) (s : State), s.fault = none → s.legalControl = true → m.control ≠ (s.st, s.ph) →
    StuckAt m.toInstr s) ∧
  (∀ (m : MainStep) (s : State), s.fault = none → s.legalControl = false → FaultsWith m.toInstr s .badControl) ∧
  ∀ s : State, s.legalControl = true ↔
    (s.st = 0#2 ∧ s.ph.toNat ≤ 2 ∨ s.st = 1#2 ∧ (s.ph = 0#4 ∨ s.ph = 3#4 ∨ s.ph = 4#4 ∨ s.ph = 5#4) ∨
      s.st = 2#2 ∧ (s.ph = 0#4 ∨ s.ph = 6#4 ∨ s.ph = 7#4 ∨ s.ph = 8#4))

/-! ## Reset and model faults -/

/-- R230: RESET is enabled in every state, a faulted one too, where nothing else is, and puts every element at its reset
value. -/
def Obligations.ResetInstallsEveryValue : Prop :=
  encode .reset = .trace 0x000000#24 ∧
  (∀ (i : Instr) (s : State), i ≠ .reset → s.fault ≠ none → ∀ t, exec i s ≠ .next t) ∧
  ∀ s : State, ∃ t, exec .reset s = .next t ∧ t.params = s.params ∧
    t.st = 0#2 ∧ t.ph = 0#4 ∧ t.entry = true ∧ t.batch = 0 ∧ t.wr = 0 ∧ t.rd = 0 ∧
    t.trig = false ∧ t.cmdS = false ∧ t.cmdO = false ∧ t.ind = none ∧ (∀ k, Memory.read t.buf k = none) ∧
    t.adcBusy = false ∧ t.adcDone = false ∧ t.adcRes = none ∧ t.rxq = [] ∧ t.txFull = false ∧ t.txHold = none ∧
    t.hostOut = [] ∧ t.fault = none

/-- R201: a model fault records the reason and the opid of the step that raised it, and writes nothing else; after it no
operation but RESET is performed, and RESET clears it. Which opid stands for MAIN's dispatch on an illegal pair is log
6's, for a primitive on its own log 13's, and the one a stuck host byte names log 12's. -/
def Obligations.ModelFaultContract : Prop :=
  (∀ (i : Instr) (s t : State), i ≠ .tick → i ≠ .fill → i ≠ .send → s.fault = none → exec i s = .next t →
    t.fault ≠ none → ∃ r : FaultReason, t = { s with fault := some ⟨r, i.opid⟩ }) ∧
  (∀ (i : Instr) (s : State), s.fault ≠ none → i ≠ .reset → i.wellFormed s.params.adcBits = true → StuckAt i s) ∧
  ∀ s : State, s.fault ≠ none → ∃ t, exec .reset s = .next t ∧ t.fault = none

/-- R202: each reason is raised by the operations, and under the conditions, its row names, the first condition tested
winning (R208). The opid a primitive on its own records is log 13's. -/
def Obligations.FaultConditions : Prop :=
  ∀ s : State, s.fault = none →
    (s.st = ST.sampling → s.ph = PH.sampPoll → s.wr ≠ s.params.n → FaultsWith .sampPoll s .bufNotFull) ∧
    (s.st = ST.transfer → s.ph = PH.top → s.wr ≠ s.params.n → FaultsWith .xferTop s .bufNotFull) ∧
    (s.st = ST.transfer → s.ph = PH.txLo → s.txFull = false → s.wr ≠ s.params.n → FaultsWith .txLo s .bufNotFull) ∧
    (s.st = ST.transfer → s.ph = PH.txHi → s.txFull = false → s.wr ≠ s.params.n → FaultsWith .txHi s .bufNotFull) ∧
    (s.st = ST.transfer → s.ph = PH.top → s.wr = s.params.n → s.params.m ≤ s.batch → FaultsWith .xferTop s .batch) ∧
    (s.st = ST.transfer → s.ph = PH.xferPoll → s.params.m ≤ s.batch → FaultsWith .xferPoll s .batch) ∧
    (s.st = ST.sampling → s.ph = PH.convStart → s.params.n ≤ s.wr → FaultsWith .convStart s .index) ∧
    (s.st = ST.sampling → s.ph = PH.convWait → s.adcDone = true → s.params.n ≤ s.wr →
      FaultsWith .convCollect s .index) ∧
    (s.st = ST.sampling → s.ph = PH.convStart → s.wr < s.params.n → s.adcBusy = true ∨ s.adcDone = true →
      FaultsWith .convStart s .adcBusy) ∧
    (s.adcBusy = true ∨ s.adcDone = true → FaultsWith .startConversion s .adcBusy) ∧
    (s.adcDone = false → FaultsWith .readConversionResult s .adcNotDone) ∧
    (s.rxq = [] → FaultsWith .readByte s .rxEmpty)

/-! ## Invariants -/

/-- The invariant holds right after reset, for every admitted machine (R230, R236). -/
def Obligations.ResetMeetsTheInvariant : Prop := ∀ p : Config.Params, p.Admitted → RunInvariant (State.resetWith p)

/-- R41, R236: every step keeps the invariant, from every state that has it. -/
def Obligations.StepKeepsTheInvariant : Prop := ∀ s t : State, RunInvariant s → step s = .next t → RunInvariant t

/-- R10, R41, R236: every transition of every agent keeps the invariant, on receive overflow with either outcome. -/
def Obligations.TransitionKeepsTheInvariant : Prop :=
  ∀ (s t : State) (i : Instr), RunInvariant s → i.schedulable = true → Admits s i t → RunInvariant t

/-- R236: no run from reset faults; in every state it reaches, R41's eight invariants hold and the pair is legal. -/
def Obligations.NoRunFromResetFaults : Prop :=
  ∀ (p : Config.Params) (r : Run), p.Admitted → r.state 0 = State.resetWith p →
    ∀ k, (r.state k).fault = none ∧ (r.state k).legalControl = true ∧ R41 (r.state k)

/-- Every operation, the composites too, keeps the buffer's canonical form. -/
def Obligations.BufferFormKept : Prop :=
  ∀ (i : Instr) (s t : State), Memory.wf s.buf → exec i s = .next t → Memory.wf t.buf

/-- R13: no operation writes the parameters. -/
def Obligations.ParametersNeverWritten : Prop :=
  ∀ (i : Instr) (s t : State), exec i s = .next t → t.params = s.params

/-- R8: BATCH_W and IDX_W are the least widths with 2^w > M and 2^w > N; 4 and 11 for the reference M and N. -/
def Obligations.DerivedWidthsAreLeast : Prop :=
  batchWidth Config.Params.reference = 4 ∧ indexWidth Config.Params.reference = 11 ∧
  ∀ (p : Config.Params) (w : Nat), (p.m < 2 ^ w ↔ batchWidth p ≤ w) ∧ (p.n < 2 ^ w ↔ indexWidth p ≤ w)

/-- R52: the two buffer primitives, every case. -/
def Obligations.BufferPrimitives : Prop :=
  ∀ (s : State) (k : Nat) (v : Sample),
    (s.params.n ≤ k → memRead k s = .error .index ∧ memWrite k v s = .error .index) ∧
    (k < s.params.n → Memory.read s.buf k = none → memRead k s = .error .unwrittenRead) ∧
    (k < s.params.n → ∀ x, Memory.read s.buf k = some x → memRead k s = .ok x) ∧
    (k < s.params.n → ∃ t, memWrite k v s = .ok t ∧ t = { s with buf := t.buf } ∧ Memory.read t.buf k = some v ∧
      ∀ j, j ≠ k → Memory.read t.buf j = Memory.read s.buf j)

/-! ## The state machine -/

/-- R101. -/
def Obligations.IdleTopResult : Prop :=
  encode .idleTop = .trace 0x010000#24 ∧
  OnlyUnder .idleTop (fun s => s.st = ST.idle ∧ s.ph = PH.top) ∧
  ∀ s : State, s.fault = none → s.st = ST.idle → s.ph = PH.top →
    exec .idleTop s =
      .next (if s.entry = true then
        { s with ind := some 0b00#2, batch := 0, trig := false, rxq := [], entry := false, ph := PH.idleTest }
      else { s with ind := some 0b00#2, ph := PH.idleTest })

/-- R102. -/
def Obligations.IdleTestResult : Prop :=
  encode .idleTest = .trace 0x020000#24 ∧
  OnlyUnder .idleTest (fun s => s.st = ST.idle ∧ s.ph = PH.idleTest) ∧
  ∀ s : State, s.fault = none → s.st = ST.idle → s.ph = PH.idleTest →
    exec .idleTest s = .next { s with trig := false, ph := if s.trig = true then PH.debounce else PH.top }

/-- R104. -/
def Obligations.DebounceDoneResult : Prop :=
  encode .debounceDone = .trace 0x030000#24 ∧
  OnlyUnder .debounceDone (fun s => s.st = ST.idle ∧ s.ph = PH.debounce) ∧
  ∀ s : State, s.fault = none → s.st = ST.idle → s.ph = PH.debounce →
    exec .debounceDone s = .next { s with trig := false, st := ST.sampling, ph := PH.top }

/-- R105. -/
def Obligations.SampTopResult : Prop :=
  encode .sampTop = .trace 0x040000#24 ∧
  OnlyUnder .sampTop (fun s => s.st = ST.sampling ∧ s.ph = PH.top) ∧
  ∀ s : State, s.fault = none → s.st = ST.sampling → s.ph = PH.top →
    exec .sampTop s = .next { s with ind := some 0b01#2, wr := 0, ph := PH.convStart }

/-- R106. -/
def Obligations.SampPollResult : Prop :=
  encode .sampPoll = .trace 0x050000#24 ∧
  OnlyUnder .sampPoll (fun s => s.st = ST.sampling ∧ s.ph = PH.sampPoll) ∧
  ∀ s : State, s.fault = none → s.st = ST.sampling → s.ph = PH.sampPoll →
    exec .sampPoll s =
      .next (if s.wr ≠ s.params.n then { s with fault := some ⟨.bufNotFull, 0x05#8⟩ }
      else if s.cmdS = true then { s with cmdS := false, st := ST.transfer, ph := PH.top }
      else { s with st := ST.idle, ph := PH.top, entry := true })

/-- R107. -/
def Obligations.XferTopResult : Prop :=
  encode .xferTop = .trace 0x060000#24 ∧
  OnlyUnder .xferTop (fun s => s.st = ST.transfer ∧ s.ph = PH.top) ∧
  ∀ s : State, s.fault = none → s.st = ST.transfer → s.ph = PH.top →
    exec .xferTop s =
      .next (if s.wr ≠ s.params.n then { s with fault := some ⟨.bufNotFull, 0x06#8⟩ }
      else if s.params.m ≤ s.batch then { s with fault := some ⟨.batch, 0x06#8⟩ }
      else { s with ind := some 0b10#2, rd := 0, ph := PH.txLo })

/-- R108. -/
def Obligations.XferPollResult : Prop :=
  encode .xferPoll = .trace 0x070000#24 ∧
  OnlyUnder .xferPoll (fun s => s.st = ST.transfer ∧ s.ph = PH.xferPoll) ∧
  ∀ s : State, s.fault = none → s.st = ST.transfer → s.ph = PH.xferPoll →
    exec .xferPoll s =
      .next (if s.params.m ≤ s.batch then { s with fault := some ⟨.batch, 0x07#8⟩ }
      else if s.cmdO = false then { s with batch := s.batch + 1, st := ST.idle, ph := PH.top, entry := true }
      else if s.batch + 1 = s.params.m then
        { s with batch := s.batch + 1, cmdO := false, st := ST.idle, ph := PH.top, entry := true }
      else { s with batch := s.batch + 1, cmdO := false, st := ST.sampling, ph := PH.top })

/-- R110: among the operations a trace may hold, ST is changed only by DEBOUNCE_DONE, SAMP_POLL and XFER_POLL, the last
steps of ticks, and by RESET. -/
def Obligations.StateWrittenOnlyAtTickEnd : Prop :=
  ∀ (i : Instr) (s t : State), i.schedulable = true → exec i s = .next t → t.st ≠ s.st →
    (i = .debounceDone ∨ i = .sampPoll ∨ i = .xferPoll) ∧ t.ph = PH.top ∨ i = .reset

/-- R109, R100: one tick, by ST at its start. It ends where what it waits for is assured (log 9), and wherever it ends the
table holds. The other agents' steps in between are free (log 9), so each row is told by the polled cell as the poll finds
it, in the state interfere gives; and by the cell at the start where it is set already. -/
def Obligations.TickFollowsTheTransitionTable : Prop :=
  ∀ s : State, RunInvariant s → s.ph = PH.top →
    ((s.st = ST.sampling → s.params.adcAnswer = .assured) → (s.st = ST.transfer → s.params.txAnswer = .assured) →
      ∃ t, exec .tick s = .next t) ∧
    ∀ t, exec .tick s = .next t → RunInvariant t ∧ t.ph = PH.top ∧
    (s.st = ST.idle → t.ind = some 0b00#2 ∧ t.entry = false ∧ t.batch = (if s.entry = true then 0 else s.batch) ∧
      t.trig = false ∧ (s.entry = false → s.trig = true → t.st = ST.sampling) ∧
      ∃ a, exec .idleTop s = .next a ∧ t.st = if (interfere a).trig = true then ST.sampling else ST.idle) ∧
    (s.st = ST.sampling → t.ind = some 0b01#2 ∧ t.wr = s.params.n ∧ t.Filled s.params.n ∧ t.batch = s.batch ∧
      t.cmdS = false ∧ (s.cmdS = true → t.st = ST.transfer) ∧
      ∃ a b, exec .sampTop s = .next a ∧ exec .fill a = .next b ∧ t.buf = b.buf ∧
        if (interfere b).cmdS = true then t.st = ST.transfer ∧ t.entry = s.entry
        else t.st = ST.idle ∧ t.entry = true) ∧
    (s.st = ST.transfer → t.ind = some 0b10#2 ∧ t.batch = s.batch + 1 ∧ t.buf = s.buf ∧ t.cmdO = false ∧
      t.sentBytes = s.sentBytes ++ batchBytes (s.elements s.params.n) ∧
      (s.cmdO = true → s.batch + 1 < s.params.m → t.st = ST.sampling) ∧
      ∃ a b, exec .xferTop s = .next a ∧ exec .send a = .next b ∧
        if (interfere b).cmdO = true ∧ s.batch + 1 < s.params.m then t.st = ST.sampling ∧ t.entry = s.entry
        else t.st = ST.idle ∧ t.entry = true)

/-! ## Event capture -/

/-- R125, R126, R127, R131: the set and the plain clear operations. -/
def Obligations.SetAndClearOperations : Prop :=
  Instr.signalTrigger.opid = 0x40#8 ∧ Instr.signalCmdS.opid = 0x41#8 ∧ Instr.signalCmdO.opid = 0x42#8 ∧
  Instr.clearTrigger.opid = 0x46#8 ∧
  ∀ s : State, s.fault = none →
    exec .signalTrigger s = .next { s with trig := true } ∧
    exec .signalCmdS s = .next { s with cmdS := true } ∧
    exec .signalCmdO s = .next { s with cmdO := true } ∧
    exec .clearTrigger s = .next { s with trig := false }

/-- R123, R128, R129, R130: the three test-and-clear operations; the returned value stands in the model's field ret
(log 8). -/
def Obligations.TestAndClearOperations : Prop :=
  ∀ s : State, s.fault = none →
    exec .tacTrigger s = .next { s with trig := false, ret := some (if s.trig = true then 1#16 else 0#16) } ∧
    exec .tacCmdS s = .next { s with cmdS := false, ret := some (if s.cmdS = true then 1#16 else 0#16) } ∧
    exec .tacCmdO s = .next { s with cmdO := false, ret := some (if s.cmdO = true then 1#16 else 0#16) }

/-- R132: TRIG_ISR, at any time with FAULT = 0, writes TRIG only; several give what one gives (R121, property 4). -/
def Obligations.TrigIsrResult : Prop :=
  encode .trigIsr = .trace 0x100000#24 ∧ (∀ s : State, s.fault ≠ none → StuckAt .trigIsr s) ∧
  ∀ s : State, s.fault = none → exec .trigIsr s = .next { s with trig := true } ∧
    ∀ t, exec .trigIsr s = .next t → exec .trigIsr t = .next t

/-- R133. -/
def Obligations.RxIsrResult : Prop :=
  encode .rxIsr = .trace 0x110000#24 ∧ (∀ s : State, s.fault ≠ none → StuckAt .rxIsr s) ∧
  (∀ s : State, s.fault = none → s.rxq = [] → StuckAt .rxIsr s) ∧
  ∀ (s : State) (b : Byte) (rest : List Byte), s.fault = none → s.rxq = b :: rest →
    exec .rxIsr s =
      .next (if b = 0x73#8 then { s with rxq := rest, cmdS := true }
      else if b = 0x6F#8 then { s with rxq := rest, cmdO := true }
      else { s with rxq := rest })

/-- R73, R126, R127, R133: what each class of host byte does once RX_ISR has read it; any other byte, nothing. -/
def Obligations.HostByteEffects : Prop :=
  ∀ (s : State) (b : Byte), s.fault = none →
    exec .hbStart s = .next { s with cmdS := true } ∧ exec .hbCont s = .next { s with cmdO := true } ∧
      ((Instr.hbOther b).wellFormed s.params.adcBits = true → exec (.hbOther b) s = .next s)

/-- R120: among the operations a trace may hold, each cell is set only by its interrupt handler and cleared only by its
consuming state (or RESET). -/
def Obligations.CellsTouchedOnlyByTheirPair : Prop :=
  ∀ (i : Instr) (s t : State), i.schedulable = true → i ≠ .reset → exec i s = .next t →
    (s.trig = false → t.trig = true → i = .trigIsr) ∧
    (s.cmdS = false → t.cmdS = true → i = .rxIsr ∧ s.rxq.head? = some 0x73#8) ∧
    (s.cmdO = false → t.cmdO = true → i = .rxIsr ∧ s.rxq.head? = some 0x6F#8) ∧
    (s.trig = true → t.trig = false →
      s.st = ST.idle ∧ (i = .idleTest ∨ i = .debounceDone ∨ i = .idleTop ∧ s.entry = true)) ∧
    (s.cmdS = true → t.cmdS = false → i = .sampPoll ∧ s.st = ST.sampling) ∧
    (s.cmdO = true → t.cmdO = false → i = .xferPoll ∧ s.st = ST.transfer)

/-- R121, property 5, at the trigger cell: both orders of a set and a test-and-clear, and of a set and a clear. -/
def Obligations.RaceOrdersOfTheTriggerCell : Prop :=
  ∀ s : State, s.fault = none → s.st = ST.idle →
    (s.ph = PH.idleTest →
      (∃ a b, exec .trigIsr s = .next a ∧ exec .idleTest a = .next b ∧ b.ph = PH.debounce ∧ b.trig = false) ∧
      ∃ a b, exec .idleTest s = .next a ∧ exec .trigIsr a = .next b ∧
        (b.ph = if s.trig = true then PH.debounce else PH.top) ∧ b.trig = true) ∧
    (s.ph = PH.debounce →
      (∃ a b, exec .trigIsr s = .next a ∧ exec .debounceDone a = .next b ∧ b.trig = false) ∧
      ∃ a b, exec .debounceDone s = .next a ∧ exec .trigIsr a = .next b ∧ b.trig = true)

/-- R207: where both handlers are enabled either may run first, the two touch disjoint state, and both orders give the
same state. -/
def Obligations.InterruptOrderIsFree : Prop :=
  ∀ s : State, s.fault = none → s.rxq ≠ [] →
    ∃ a b t, exec .trigIsr s = .next a ∧ exec .rxIsr a = .next t ∧ exec .rxIsr s = .next b ∧
      exec .trigIsr b = .next t ∧ a = { s with trig := a.trig } ∧
      b = { s with rxq := b.rxq, cmdS := b.cmdS, cmdO := b.cmdO }

/-- R209: a handler leaves MAIN's state, and the buffer, as they are. -/
def Obligations.HandlersLeaveMainUntouched : Prop :=
  ∀ (i : Instr) (s t : State), i = .trigIsr ∨ i = .rxIsr → exec i s = .next t →
    t.st = s.st ∧ t.ph = s.ph ∧ t.entry = s.entry ∧ t.batch = s.batch ∧ t.wr = s.wr ∧ t.rd = s.rd ∧ t.buf = s.buf ∧
      t.fault = none

/-! ## Sampler and transmitter -/

/-- R141. -/
def Obligations.ConvStartResult : Prop :=
  encode .convStart = .trace 0x080000#24 ∧
  OnlyUnder .convStart (fun s => s.st = ST.sampling ∧ s.ph = PH.convStart) ∧
  ∀ s : State, s.fault = none → s.st = ST.sampling → s.ph = PH.convStart →
    exec .convStart s =
      .next (if s.params.n ≤ s.wr then { s with fault := some ⟨.index, 0x08#8⟩ }
      else if s.adcBusy = true ∨ s.adcDone = true then { s with fault := some ⟨.adcBusy, 0x08#8⟩ }
      else { s with adcBusy := true, adcDone := false, ph := PH.convWait })

/-- R142: the result collected is ADC_RES; only while ADC_RES holds ⊥ is it a free value (log 5). -/
def Obligations.ConvCollectResult : Prop :=
  encode .convCollect = .trace 0x090000#24 ∧
  OnlyUnder .convCollect (fun s => s.st = ST.sampling ∧ s.ph = PH.convWait ∧ s.adcDone = true) ∧
  ∀ s : State, s.fault = none → s.st = ST.sampling → s.ph = PH.convWait → s.adcDone = true →
    (s.params.n ≤ s.wr → FaultsWith .convCollect s .index) ∧
    (s.wr < s.params.n → ∃ r d, (∀ v, s.adcRes = some v → r = v ∧ d = s.draws) ∧
      exec .convCollect s =
        .next { s with
          buf := Memory.write s.buf s.wr r, wr := s.wr + 1, adcDone := false, draws := d
          ph := if s.wr + 1 = s.params.n then PH.sampPoll else PH.convStart } ∧
      Memory.read (Memory.write s.buf s.wr r) s.wr = some r ∧
      ∀ j, j ≠ s.wr → Memory.read (Memory.write s.buf s.wr r) j = Memory.read s.buf j)

/-- R144. -/
def Obligations.TxLoResult : Prop :=
  encode .txLo = .trace 0x0A0000#24 ∧
  OnlyUnder .txLo (fun s => s.st = ST.transfer ∧ s.ph = PH.txLo ∧ s.txFull = false) ∧
  ∀ s : State, s.fault = none → s.st = ST.transfer → s.ph = PH.txLo → s.txFull = false →
    (s.wr ≠ s.params.n → FaultsWith .txLo s .bufNotFull) ∧
    (s.wr = s.params.n → s.params.n ≤ s.rd → FaultsWith .txLo s .index) ∧
    (s.wr = s.params.n → s.rd < s.params.n → Memory.read s.buf s.rd = none → FaultsWith .txLo s .unwrittenRead) ∧
    (s.wr = s.params.n → s.rd < s.params.n → ∀ v, Memory.read s.buf s.rd = some v →
      exec .txLo s = .next { s with txHold := some (v.extractLsb' 0 8), txFull := true, ph := PH.txHi })

/-- R145. -/
def Obligations.TxHiResult : Prop :=
  encode .txHi = .trace 0x0B0000#24 ∧
  OnlyUnder .txHi (fun s => s.st = ST.transfer ∧ s.ph = PH.txHi ∧ s.txFull = false) ∧
  ∀ s : State, s.fault = none → s.st = ST.transfer → s.ph = PH.txHi → s.txFull = false →
    (s.wr ≠ s.params.n → FaultsWith .txHi s .bufNotFull) ∧
    (s.wr = s.params.n → s.params.n ≤ s.rd → FaultsWith .txHi s .index) ∧
    (s.wr = s.params.n → s.rd < s.params.n → Memory.read s.buf s.rd = none → FaultsWith .txHi s .unwrittenRead) ∧
    (s.wr = s.params.n → s.rd < s.params.n → ∀ v, Memory.read s.buf s.rd = some v →
      exec .txHi s = .next { s with
        txHold := some (v.extractLsb' 8 8), txFull := true, rd := s.rd + 1
        ph := if s.rd + 1 = s.params.n then PH.xferPoll else PH.txLo })

/-- R140: a fill ends where ADC_COMPLETES is granted (log 9). Wherever it ends, it has converted N times and left exactly
its N results in the buffer, in order: element k is the result ADC_RES holds after the pair of steps number k + 1. -/
def Obligations.FillWritesEveryElement : Prop :=
  ∀ s : State, s.fault = none → s.st = ST.sampling → s.ph = PH.convStart → s.wr = 0 → 1 ≤ s.params.n →
    s.adcBusy = false → s.adcDone = false →
    (s.params.adcAnswer = .assured → ∃ t, exec .fill s = .next t) ∧
    ∀ t, exec .fill s = .next t → ∃ rs : List Sample, rs.length = s.params.n ∧
      (∀ r ∈ rs, inAdcRange s.params r = true) ∧
      (∀ k, k < s.params.n → Memory.read t.buf k = rs[k]? ∧
        ∃ u, repeatTimes (k + 1) fillElement s = .next u ∧ u.wr = k + 1 ∧ u.adcRes = rs[k]?) ∧
      (∀ k, s.params.n ≤ k → Memory.read t.buf k = Memory.read s.buf k) ∧ t.adcRes = rs.getLast? ∧
      t.wr = s.params.n ∧ t.st = ST.sampling ∧ t.ph = PH.sampPoll ∧ t.adcBusy = false ∧ t.adcDone = false ∧
      t.fault = none ∧ t.params = s.params ∧ t.entry = s.entry ∧ t.batch = s.batch ∧ t.rd = s.rd ∧ t.ind = s.ind ∧
      t.ret = s.ret ∧ t.trace = s.trace

/-- R143, R64, R74: a send ends where TX_FAIR is granted (log 9). Wherever it ends, it has passed the 2N bytes of the buffer
to the transmitter, low byte first, in order; only the last byte held may not have reached HOST_OUT. -/
def Obligations.SendEmitsTheBatch : Prop :=
  ∀ s : State, s.fault = none → s.st = ST.transfer → s.ph = PH.txLo → s.rd = 0 → 1 ≤ s.params.n →
    s.wr = s.params.n → s.Filled s.params.n → (s.txFull = true → s.txHold.isSome = true) →
    (s.params.txAnswer = .assured → ∃ t, exec .send s = .next t) ∧
    ∀ t, exec .send s = .next t →
      t.sentBytes = s.sentBytes ++ batchBytes (s.elements s.params.n) ∧
      (batchBytes (s.elements s.params.n)).length = 2 * s.params.n ∧
      s.hostOut.length + 2 * s.params.n ≤ t.hostOut.length + 1 ∧
      t.rd = s.params.n ∧ t.st = ST.transfer ∧ t.ph = PH.xferPoll ∧ t.buf = s.buf ∧ t.wr = s.wr ∧ t.fault = none ∧
      t.params = s.params ∧ t.entry = s.entry ∧ t.batch = s.batch ∧ t.ind = s.ind ∧ t.ret = s.ret ∧ t.trace = s.trace

/-- R32: among the operations a trace may hold, BUF is written only by CONV_COLLECT, at WR, with ST = SAMPLING (and by
RESET). -/
def Obligations.BufferHasOneWriter : Prop :=
  ∀ (i : Instr) (s t : State), i.schedulable = true → exec i s = .next t →
    t.buf = s.buf ∨ i = .reset ∨ i = .convCollect ∧ s.st = ST.sampling ∧ s.wr < s.params.n ∧
      ∀ j, j ≠ s.wr → Memory.read t.buf j = Memory.read s.buf j

/-- R32: no operation a trace may hold, but TX_LO and TX_HI with ST = TRANSFER, is influenced by what BUF holds. -/
def Obligations.BufferReadOnlyByTheSend : Prop :=
  ∀ (i : Instr) (s t : State) (m : Memory), i.schedulable = true → i ≠ .txLo → i ≠ .txHi →
    exec i s = .next t → ∃ m', exec i { s with buf := m } = .next { t with buf := m' }

/-! ## Peripherals and environment -/

/-- R162, R163, R164: the converter's three operations; the returned values stand in the model's field ret (log 8), and the
result read while ADC_RES holds ⊥ is free (log 5). -/
def Obligations.ConverterOperations : Prop :=
  ∀ s : State, s.fault = none →
    (s.adcBusy = false → s.adcDone = false → exec .startConversion s = .next { s with adcBusy := true }) ∧
    exec .isConversionDone s = .next { s with ret := some (if s.adcDone = true then 1#16 else 0#16) } ∧
    (s.adcDone = true → ∃ r d, (∀ v, s.adcRes = some v → r = v ∧ d = s.draws) ∧
      exec .readConversionResult s = .next { s with adcDone := false, ret := some r, draws := d })

/-- R165, R166, R167, R169: the serial operations; the returned values stand in the model's field ret (log 8). -/
def Obligations.SerialOperations : Prop :=
  ∀ (s : State) (b : Byte), s.fault = none →
    (s.txFull = false → exec (.sendByte b) s = .next { s with txHold := some b, txFull := true }) ∧
    (s.txFull = true → StuckAt (.sendByte b) s) ∧
    exec .receivedByteAvailable s = .next { s with ret := some (if s.rxq = [] then 0#16 else 1#16) } ∧
    (∀ h rest, s.rxq = h :: rest → exec .readByte s = .next { s with rxq := rest, ret := some (h.setWidth 16) }) ∧
    exec .flushRx s = .next { s with rxq := [] }

/-- R168, R170, R171: the indicator, at each of its three patterns, and the two registrations, which have no model-visible
effect. -/
def Obligations.IndicatorAndRegistrations : Prop :=
  ∀ s : State, s.fault = none →
    exec (.setIndicator .idle) s = .next { s with ind := some 0b00#2 } ∧
    exec (.setIndicator .sampling) s = .next { s with ind := some 0b01#2 } ∧
    exec (.setIndicator .transfer) s = .next { s with ind := some 0b10#2 } ∧
    exec .onEdgeInterrupt s = .next s ∧ exec .onByteReceivedInterrupt s = .next s

/-- R172: a host byte is appended; on overflow either it or the oldest is dropped, which one being free (log 4), and both
are transitions of the machine. -/
def Obligations.HostSendResult : Prop :=
  (∀ b : Byte, encode (.hostSend b) = .trace (packWord 0x20#8 (b.setWidth 16))) ∧
  ∀ (s : State) (b : Byte), s.fault = none →
    (s.rxq.length < s.params.rxDepth → exec (.hostSend b) s = .next { s with rxq := s.rxq ++ [b] }) ∧
    (s.params.rxDepth ≤ s.rxq.length →
      (exec (.hostSend b) s = .next { s with draws := s.draws + 1 } ∨
        exec (.hostSend b) s = .next { s with rxq := s.rxq.tail ++ [b], draws := s.draws + 1 }) ∧
      Admits s (.hostSend b) s ∧ Admits s (.hostSend b) { s with rxq := s.rxq.tail ++ [b] })

/-- R173: a conversion completes with any value of ADC_BITS bits; a value outside is refused (R79). -/
def Obligations.AdcCompleteResult : Prop :=
  (∀ v : Sample, encode (.adcComplete v) = .trace (packWord 0x21#8 v)) ∧
  ∀ (s : State) (v : Sample),
    (2 ^ s.params.adcBits ≤ v.toNat → exec (.adcComplete v) s = .refused (.word .adcRange)) ∧
    (s.fault = none → v.toNat < 2 ^ s.params.adcBits → s.adcBusy = false → StuckAt (.adcComplete v) s) ∧
    (s.fault = none → v.toNat < 2 ^ s.params.adcBits → s.adcBusy = true →
      exec (.adcComplete v) s = .next { s with adcRes := some v, adcDone := true, adcBusy := false })

/-- R174: the held byte reaches HOST_OUT; only while TX_HOLD holds ⊥ is it a free value (log 5). -/
def Obligations.TxShiftResult : Prop :=
  encode .txShift = .trace 0x220000#24 ∧
  ∀ s : State, s.fault = none →
    (s.txFull = false → StuckAt .txShift s) ∧
    (s.txFull = true → ∃ b d, (∀ h, s.txHold = some h → b = h ∧ d = s.draws) ∧
      exec .txShift s = .next { s with hostOut := s.hostOut ++ [b], txFull := false, draws := d })

/-- R37: among the operations a trace may hold, HOST_OUT is written only by TX_SHIFT, which appends one byte, and by
RESET. -/
def Obligations.HostOutOnlyGrows : Prop :=
  ∀ (i : Instr) (s t : State), i.schedulable = true → i ≠ .reset → exec i s = .next t →
    if i = .txShift then ∃ b, t.hostOut = s.hostOut ++ [b] else t.hostOut = s.hostOut

/-! ## Hazards -/

/-- R240: while MAIN waits for a conversion that has not completed, no MAIN step is enabled, the handlers still are, and
every operation but ADC_COMPLETE and RESET leaves it waiting, with the indicator as it is, no fault and no cell cleared.
R100: a fill, and a tick of SAMPLING, wait without end there if the converter never answers, and otherwise end or wait so,
never where ADC_COMPLETES is granted (log 9). -/
def Obligations.ConversionWaitHangs : Prop :=
  (∀ s : State, s.fault = none → s.st = ST.sampling → s.ph = PH.convWait → s.adcDone = false →
    (∀ m : MainStep, StuckAt m.toInstr s) ∧ (∃ t, exec .trigIsr s = .next t ∧ t.trig = true) ∧
    (s.rxq ≠ [] → ∃ t, exec .rxIsr s = .next t ∧ t.rxq = s.rxq.tail) ∧
    ∀ (i : Instr) (t : State), i.schedulable = true → i ≠ .reset → (∀ v, i ≠ .adcComplete v) → exec i s = .next t →
      t.fault = none ∧ t.st = ST.sampling ∧ t.ph = PH.convWait ∧ t.adcDone = false ∧ t.ind = s.ind ∧
        (s.trig = true → t.trig = true) ∧ (s.cmdS = true → t.cmdS = true) ∧ (s.cmdO = true → t.cmdO = true)) ∧
  (∀ s : State, s.fault = none → s.st = ST.sampling → s.ph = PH.convStart → s.wr = 0 → 1 ≤ s.params.n →
    s.adcBusy = false → s.adcDone = false →
    (s.params.adcAnswer = .never → HangsAt .fill s 0x09#8) ∧
    (s.params.adcAnswer ≠ .assured ∧ HangsAt .fill s 0x09#8 ∨ ∃ t, exec .fill s = .next t)) ∧
  ∀ s : State, RunInvariant s → s.st = ST.sampling → s.ph = PH.top →
    (s.params.adcAnswer = .never → HangsAt .tick s 0x09#8) ∧
    (s.params.adcAnswer ≠ .assured ∧ HangsAt .tick s 0x09#8 ∨ ∃ t, exec .tick s = .next t)

/-- R245: while MAIN waits for the transmitter, no MAIN step is enabled, and every operation but TX_SHIFT and RESET leaves
it waiting, the latches only gaining commands. R100: a send, and a tick of TRANSFER, wait without end there if the
transmitter never answers (at TX_LO if it holds a byte at the start, else at TX_HI), and otherwise end or wait so, never
where TX_FAIR is granted (log 9). -/
def Obligations.TransmitWaitHangs : Prop :=
  (∀ s : State, s.fault = none → s.st = ST.transfer → s.ph = PH.txLo ∨ s.ph = PH.txHi → s.txFull = true →
    (∀ m : MainStep, StuckAt m.toInstr s) ∧
    ∀ (i : Instr) (t : State), i.schedulable = true → i ≠ .reset → i ≠ .txShift → exec i s = .next t →
      t.fault = none ∧ t.st = s.st ∧ t.ph = s.ph ∧ t.txFull = true ∧
        (s.cmdS = true → t.cmdS = true) ∧ (s.cmdO = true → t.cmdO = true)) ∧
  (∀ s : State, s.fault = none → s.st = ST.transfer → s.ph = PH.txLo → s.rd = 0 → 1 ≤ s.params.n →
    s.wr = s.params.n → s.Filled s.params.n → (s.txFull = true → s.txHold.isSome = true) →
    (s.params.txAnswer = .never → HangsAt .send s (if s.txFull = true then 0x0A#8 else 0x0B#8)) ∧
    (s.params.txAnswer ≠ .assured ∧ (HangsAt .send s 0x0A#8 ∨ HangsAt .send s 0x0B#8) ∨
      ∃ t, exec .send s = .next t)) ∧
  ∀ s : State, RunInvariant s → s.st = ST.transfer → s.ph = PH.top →
    (s.params.txAnswer = .never → HangsAt .tick s (if s.txFull = true then 0x0A#8 else 0x0B#8)) ∧
    (s.params.txAnswer ≠ .assured ∧ (HangsAt .tick s 0x0A#8 ∨ HangsAt .tick s 0x0B#8) ∨
      ∃ t, exec .tick s = .next t)

/-- R241, R235, R134: what an entry IDLE_TOP discards and what it keeps: the trigger and the unread bytes go, the latches
stay. -/
def Obligations.IdleEntryWindow : Prop :=
  ∀ s : State, s.fault = none → s.st = ST.idle → s.ph = PH.top → s.entry = true →
    ∃ t, exec .idleTop s = .next t ∧ t.trig = false ∧ t.rxq = [] ∧ t.cmdS = s.cmdS ∧ t.cmdO = s.cmdO ∧
      t.ind = some 0b00#2 ∧
      ∃ u v, exec .trigIsr t = .next u ∧ exec .idleTest u = .next v ∧ v.ph = PH.debounce
end

