-- ==== Sys2Proof/Laws/Memory.lean ====
section
/-! SUPPORT. The laws of the Acquisition Buffer: read after write, every write keeps the canonical form, and what
memRead and memWrite can answer (20_memory.md R52). -/

namespace Sys2Proof.Machine

theorem Memory.read_write_same (m : Memory) (i : Nat) (v : Sample) : Memory.read (Memory.write m i v) i = some v := by
  induction m with
  | nil => simp [Memory.write, Memory.read]
  | cons e rest ih =>
    obtain ⟨j, w⟩ := e
    simp only [Memory.write]
    split
    · simp [Memory.read]
    · split
      · simp [Memory.read]
      · next h => simp [Memory.read, h, ih]

theorem Memory.read_write_other (m : Memory) {i j : Nat} (v : Sample) (h : j ≠ i) :
    Memory.read (Memory.write m i v) j = Memory.read m j := by
  induction m with
  | nil => simp [Memory.write, Memory.read, h]
  | cons e rest ih =>
    obtain ⟨k, w⟩ := e
    simp only [Memory.write]
    split
    · simp [Memory.read, h]
    · split
      · next h' => subst h'; simp [Memory.read, h]
      · simp only [Memory.read]
        split <;> simp [ih]

theorem Memory.mem_write {m : Memory} {i : Nat} {v : Sample} {e : Nat × Sample} (h : e ∈ Memory.write m i v) :
    e = (i, v) ∨ e ∈ m := by
  induction m with
  | nil => simpa [Memory.write] using h
  | cons d rest ih =>
    obtain ⟨j, w⟩ := d
    simp only [Memory.write] at h
    split at h
    · simpa using h
    · split at h
      · rcases List.mem_cons.1 h with h | h
        · exact .inl h
        · exact .inr (List.mem_cons_of_mem _ h)
      · rcases List.mem_cons.1 h with h | h
        · exact .inr (by simp [h])
        · rcases ih h with h | h
          · exact .inl h
          · exact .inr (List.mem_cons_of_mem _ h)

theorem Memory.wf_write {m : Memory} (i : Nat) (v : Sample) (h : Memory.wf m) : Memory.wf (Memory.write m i v) := by
  induction m with
  | nil => simp [Memory.write, Memory.wf]
  | cons d rest ih =>
    obtain ⟨j, w⟩ := d
    have hd := List.pairwise_cons.1 h
    simp only [Memory.write]
    split
    · next hij =>
      refine List.pairwise_cons.2 ⟨fun e he => ?_, h⟩
      rcases List.mem_cons.1 he with he | he
      · simpa [he] using hij
      · exact Nat.lt_trans hij (hd.1 e he)
    · split
      · next hij => exact List.pairwise_cons.2 ⟨fun e he => by simpa [hij] using hd.1 e he, hd.2⟩
      · next hlt hne =>
        refine List.pairwise_cons.2 ⟨fun e he => ?_, ih hd.2⟩
        rcases Memory.mem_write he with he | he
        · simp only [he]; omega
        · exact hd.1 e he

/-- Reads see what the list holds: a written element is in the list. -/
theorem Memory.mem_of_read {m : Memory} {i : Nat} {v : Sample} (h : Memory.read m i = some v) : (i, v) ∈ m := by
  induction m with
  | nil => simp [Memory.read] at h
  | cons d rest ih =>
    obtain ⟨j, w⟩ := d
    simp only [Memory.read] at h
    split at h
    · next hij => simp_all
    · exact List.mem_cons_of_mem _ (ih h)

theorem memRead_ok_iff {i : Nat} {s : State} {v : Sample} :
    memRead i s = .ok v ↔ i < s.params.n ∧ Memory.read s.buf i = some v := by
  unfold memRead
  split
  · simp; omega
  · next h => split <;> simp_all

theorem memWrite_ok_iff {i : Nat} {v : Sample} {s t : State} :
    memWrite i v s = .ok t ↔ i < s.params.n ∧ t = { s with buf := Memory.write s.buf i v } := by
  unfold memWrite
  split
  · simp; omega
  · next h => simp [eq_comm, Nat.lt_of_not_le h]

end Sys2Proof.Machine
end

