-- ==== Sys2Proof/Laws/State.lean ====
section
/-! SUPPORT. What each named update of State does to each field: one lemma a field, true by rfl, so that no later proof
unfolds a record update. -/

namespace Sys2Proof.Machine


/-! State.raiseFault -/

@[simp] theorem State.raiseFault_params (s : State) (r : FaultReason) (op : Opid) : (s.raiseFault r op).params = s.params := rfl
@[simp] theorem State.raiseFault_st (s : State) (r : FaultReason) (op : Opid) : (s.raiseFault r op).st = s.st := rfl
@[simp] theorem State.raiseFault_ph (s : State) (r : FaultReason) (op : Opid) : (s.raiseFault r op).ph = s.ph := rfl
@[simp] theorem State.raiseFault_entry (s : State) (r : FaultReason) (op : Opid) : (s.raiseFault r op).entry = s.entry := rfl
@[simp] theorem State.raiseFault_batch (s : State) (r : FaultReason) (op : Opid) : (s.raiseFault r op).batch = s.batch := rfl
@[simp] theorem State.raiseFault_wr (s : State) (r : FaultReason) (op : Opid) : (s.raiseFault r op).wr = s.wr := rfl
@[simp] theorem State.raiseFault_rd (s : State) (r : FaultReason) (op : Opid) : (s.raiseFault r op).rd = s.rd := rfl
@[simp] theorem State.raiseFault_trig (s : State) (r : FaultReason) (op : Opid) : (s.raiseFault r op).trig = s.trig := rfl
@[simp] theorem State.raiseFault_cmdS (s : State) (r : FaultReason) (op : Opid) : (s.raiseFault r op).cmdS = s.cmdS := rfl
@[simp] theorem State.raiseFault_cmdO (s : State) (r : FaultReason) (op : Opid) : (s.raiseFault r op).cmdO = s.cmdO := rfl
@[simp] theorem State.raiseFault_ind (s : State) (r : FaultReason) (op : Opid) : (s.raiseFault r op).ind = s.ind := rfl
@[simp] theorem State.raiseFault_buf (s : State) (r : FaultReason) (op : Opid) : (s.raiseFault r op).buf = s.buf := rfl
@[simp] theorem State.raiseFault_adcBusy (s : State) (r : FaultReason) (op : Opid) : (s.raiseFault r op).adcBusy = s.adcBusy := rfl
@[simp] theorem State.raiseFault_adcDone (s : State) (r : FaultReason) (op : Opid) : (s.raiseFault r op).adcDone = s.adcDone := rfl
@[simp] theorem State.raiseFault_adcRes (s : State) (r : FaultReason) (op : Opid) : (s.raiseFault r op).adcRes = s.adcRes := rfl
@[simp] theorem State.raiseFault_rxq (s : State) (r : FaultReason) (op : Opid) : (s.raiseFault r op).rxq = s.rxq := rfl
@[simp] theorem State.raiseFault_txFull (s : State) (r : FaultReason) (op : Opid) : (s.raiseFault r op).txFull = s.txFull := rfl
@[simp] theorem State.raiseFault_txHold (s : State) (r : FaultReason) (op : Opid) : (s.raiseFault r op).txHold = s.txHold := rfl
@[simp] theorem State.raiseFault_hostOut (s : State) (r : FaultReason) (op : Opid) : (s.raiseFault r op).hostOut = s.hostOut := rfl
@[simp] theorem State.raiseFault_fault (s : State) (r : FaultReason) (op : Opid) : (s.raiseFault r op).fault = some ⟨r, op⟩ := rfl
@[simp] theorem State.raiseFault_ret (s : State) (r : FaultReason) (op : Opid) : (s.raiseFault r op).ret = s.ret := rfl
@[simp] theorem State.raiseFault_trace (s : State) (r : FaultReason) (op : Opid) : (s.raiseFault r op).trace = s.trace := rfl
@[simp] theorem State.raiseFault_draws (s : State) (r : FaultReason) (op : Opid) : (s.raiseFault r op).draws = s.draws := rfl

/-! State.goto -/

@[simp] theorem State.goto_params (s : State) (st : BitVec 2) (ph : BitVec 4) : (s.goto st ph).params = s.params := rfl
@[simp] theorem State.goto_st (s : State) (st : BitVec 2) (ph : BitVec 4) : (s.goto st ph).st = st := rfl
@[simp] theorem State.goto_ph (s : State) (st : BitVec 2) (ph : BitVec 4) : (s.goto st ph).ph = ph := rfl
@[simp] theorem State.goto_entry (s : State) (st : BitVec 2) (ph : BitVec 4) : (s.goto st ph).entry = s.entry := rfl
@[simp] theorem State.goto_batch (s : State) (st : BitVec 2) (ph : BitVec 4) : (s.goto st ph).batch = s.batch := rfl
@[simp] theorem State.goto_wr (s : State) (st : BitVec 2) (ph : BitVec 4) : (s.goto st ph).wr = s.wr := rfl
@[simp] theorem State.goto_rd (s : State) (st : BitVec 2) (ph : BitVec 4) : (s.goto st ph).rd = s.rd := rfl
@[simp] theorem State.goto_trig (s : State) (st : BitVec 2) (ph : BitVec 4) : (s.goto st ph).trig = s.trig := rfl
@[simp] theorem State.goto_cmdS (s : State) (st : BitVec 2) (ph : BitVec 4) : (s.goto st ph).cmdS = s.cmdS := rfl
@[simp] theorem State.goto_cmdO (s : State) (st : BitVec 2) (ph : BitVec 4) : (s.goto st ph).cmdO = s.cmdO := rfl
@[simp] theorem State.goto_ind (s : State) (st : BitVec 2) (ph : BitVec 4) : (s.goto st ph).ind = s.ind := rfl
@[simp] theorem State.goto_buf (s : State) (st : BitVec 2) (ph : BitVec 4) : (s.goto st ph).buf = s.buf := rfl
@[simp] theorem State.goto_adcBusy (s : State) (st : BitVec 2) (ph : BitVec 4) : (s.goto st ph).adcBusy = s.adcBusy := rfl
@[simp] theorem State.goto_adcDone (s : State) (st : BitVec 2) (ph : BitVec 4) : (s.goto st ph).adcDone = s.adcDone := rfl
@[simp] theorem State.goto_adcRes (s : State) (st : BitVec 2) (ph : BitVec 4) : (s.goto st ph).adcRes = s.adcRes := rfl
@[simp] theorem State.goto_rxq (s : State) (st : BitVec 2) (ph : BitVec 4) : (s.goto st ph).rxq = s.rxq := rfl
@[simp] theorem State.goto_txFull (s : State) (st : BitVec 2) (ph : BitVec 4) : (s.goto st ph).txFull = s.txFull := rfl
@[simp] theorem State.goto_txHold (s : State) (st : BitVec 2) (ph : BitVec 4) : (s.goto st ph).txHold = s.txHold := rfl
@[simp] theorem State.goto_hostOut (s : State) (st : BitVec 2) (ph : BitVec 4) : (s.goto st ph).hostOut = s.hostOut := rfl
@[simp] theorem State.goto_fault (s : State) (st : BitVec 2) (ph : BitVec 4) : (s.goto st ph).fault = s.fault := rfl
@[simp] theorem State.goto_ret (s : State) (st : BitVec 2) (ph : BitVec 4) : (s.goto st ph).ret = s.ret := rfl
@[simp] theorem State.goto_trace (s : State) (st : BitVec 2) (ph : BitVec 4) : (s.goto st ph).trace = s.trace := rfl
@[simp] theorem State.goto_draws (s : State) (st : BitVec 2) (ph : BitVec 4) : (s.goto st ph).draws = s.draws := rfl

/-! State.returning -/

@[simp] theorem State.returning_params (s : State) (v : Sample) : (s.returning v).params = s.params := rfl
@[simp] theorem State.returning_st (s : State) (v : Sample) : (s.returning v).st = s.st := rfl
@[simp] theorem State.returning_ph (s : State) (v : Sample) : (s.returning v).ph = s.ph := rfl
@[simp] theorem State.returning_entry (s : State) (v : Sample) : (s.returning v).entry = s.entry := rfl
@[simp] theorem State.returning_batch (s : State) (v : Sample) : (s.returning v).batch = s.batch := rfl
@[simp] theorem State.returning_wr (s : State) (v : Sample) : (s.returning v).wr = s.wr := rfl
@[simp] theorem State.returning_rd (s : State) (v : Sample) : (s.returning v).rd = s.rd := rfl
@[simp] theorem State.returning_trig (s : State) (v : Sample) : (s.returning v).trig = s.trig := rfl
@[simp] theorem State.returning_cmdS (s : State) (v : Sample) : (s.returning v).cmdS = s.cmdS := rfl
@[simp] theorem State.returning_cmdO (s : State) (v : Sample) : (s.returning v).cmdO = s.cmdO := rfl
@[simp] theorem State.returning_ind (s : State) (v : Sample) : (s.returning v).ind = s.ind := rfl
@[simp] theorem State.returning_buf (s : State) (v : Sample) : (s.returning v).buf = s.buf := rfl
@[simp] theorem State.returning_adcBusy (s : State) (v : Sample) : (s.returning v).adcBusy = s.adcBusy := rfl
@[simp] theorem State.returning_adcDone (s : State) (v : Sample) : (s.returning v).adcDone = s.adcDone := rfl
@[simp] theorem State.returning_adcRes (s : State) (v : Sample) : (s.returning v).adcRes = s.adcRes := rfl
@[simp] theorem State.returning_rxq (s : State) (v : Sample) : (s.returning v).rxq = s.rxq := rfl
@[simp] theorem State.returning_txFull (s : State) (v : Sample) : (s.returning v).txFull = s.txFull := rfl
@[simp] theorem State.returning_txHold (s : State) (v : Sample) : (s.returning v).txHold = s.txHold := rfl
@[simp] theorem State.returning_hostOut (s : State) (v : Sample) : (s.returning v).hostOut = s.hostOut := rfl
@[simp] theorem State.returning_fault (s : State) (v : Sample) : (s.returning v).fault = s.fault := rfl
@[simp] theorem State.returning_ret (s : State) (v : Sample) : (s.returning v).ret = some v := rfl
@[simp] theorem State.returning_trace (s : State) (v : Sample) : (s.returning v).trace = s.trace := rfl
@[simp] theorem State.returning_draws (s : State) (v : Sample) : (s.returning v).draws = s.draws := rfl

/-! State.setIndicator -/

@[simp] theorem State.setIndicator_params (s : State) (p : Indicator) : (s.setIndicator p).params = s.params := rfl
@[simp] theorem State.setIndicator_st (s : State) (p : Indicator) : (s.setIndicator p).st = s.st := rfl
@[simp] theorem State.setIndicator_ph (s : State) (p : Indicator) : (s.setIndicator p).ph = s.ph := rfl
@[simp] theorem State.setIndicator_entry (s : State) (p : Indicator) : (s.setIndicator p).entry = s.entry := rfl
@[simp] theorem State.setIndicator_batch (s : State) (p : Indicator) : (s.setIndicator p).batch = s.batch := rfl
@[simp] theorem State.setIndicator_wr (s : State) (p : Indicator) : (s.setIndicator p).wr = s.wr := rfl
@[simp] theorem State.setIndicator_rd (s : State) (p : Indicator) : (s.setIndicator p).rd = s.rd := rfl
@[simp] theorem State.setIndicator_trig (s : State) (p : Indicator) : (s.setIndicator p).trig = s.trig := rfl
@[simp] theorem State.setIndicator_cmdS (s : State) (p : Indicator) : (s.setIndicator p).cmdS = s.cmdS := rfl
@[simp] theorem State.setIndicator_cmdO (s : State) (p : Indicator) : (s.setIndicator p).cmdO = s.cmdO := rfl
@[simp] theorem State.setIndicator_ind (s : State) (p : Indicator) : (s.setIndicator p).ind = some (indicatorCode p) := rfl
@[simp] theorem State.setIndicator_buf (s : State) (p : Indicator) : (s.setIndicator p).buf = s.buf := rfl
@[simp] theorem State.setIndicator_adcBusy (s : State) (p : Indicator) : (s.setIndicator p).adcBusy = s.adcBusy := rfl
@[simp] theorem State.setIndicator_adcDone (s : State) (p : Indicator) : (s.setIndicator p).adcDone = s.adcDone := rfl
@[simp] theorem State.setIndicator_adcRes (s : State) (p : Indicator) : (s.setIndicator p).adcRes = s.adcRes := rfl
@[simp] theorem State.setIndicator_rxq (s : State) (p : Indicator) : (s.setIndicator p).rxq = s.rxq := rfl
@[simp] theorem State.setIndicator_txFull (s : State) (p : Indicator) : (s.setIndicator p).txFull = s.txFull := rfl
@[simp] theorem State.setIndicator_txHold (s : State) (p : Indicator) : (s.setIndicator p).txHold = s.txHold := rfl
@[simp] theorem State.setIndicator_hostOut (s : State) (p : Indicator) : (s.setIndicator p).hostOut = s.hostOut := rfl
@[simp] theorem State.setIndicator_fault (s : State) (p : Indicator) : (s.setIndicator p).fault = s.fault := rfl
@[simp] theorem State.setIndicator_ret (s : State) (p : Indicator) : (s.setIndicator p).ret = s.ret := rfl
@[simp] theorem State.setIndicator_trace (s : State) (p : Indicator) : (s.setIndicator p).trace = s.trace := rfl
@[simp] theorem State.setIndicator_draws (s : State) (p : Indicator) : (s.setIndicator p).draws = s.draws := rfl

/-! State.flushRx -/

@[simp] theorem State.flushRx_params (s : State) : s.flushRx.params = s.params := rfl
@[simp] theorem State.flushRx_st (s : State) : s.flushRx.st = s.st := rfl
@[simp] theorem State.flushRx_ph (s : State) : s.flushRx.ph = s.ph := rfl
@[simp] theorem State.flushRx_entry (s : State) : s.flushRx.entry = s.entry := rfl
@[simp] theorem State.flushRx_batch (s : State) : s.flushRx.batch = s.batch := rfl
@[simp] theorem State.flushRx_wr (s : State) : s.flushRx.wr = s.wr := rfl
@[simp] theorem State.flushRx_rd (s : State) : s.flushRx.rd = s.rd := rfl
@[simp] theorem State.flushRx_trig (s : State) : s.flushRx.trig = s.trig := rfl
@[simp] theorem State.flushRx_cmdS (s : State) : s.flushRx.cmdS = s.cmdS := rfl
@[simp] theorem State.flushRx_cmdO (s : State) : s.flushRx.cmdO = s.cmdO := rfl
@[simp] theorem State.flushRx_ind (s : State) : s.flushRx.ind = s.ind := rfl
@[simp] theorem State.flushRx_buf (s : State) : s.flushRx.buf = s.buf := rfl
@[simp] theorem State.flushRx_adcBusy (s : State) : s.flushRx.adcBusy = s.adcBusy := rfl
@[simp] theorem State.flushRx_adcDone (s : State) : s.flushRx.adcDone = s.adcDone := rfl
@[simp] theorem State.flushRx_adcRes (s : State) : s.flushRx.adcRes = s.adcRes := rfl
@[simp] theorem State.flushRx_rxq (s : State) : s.flushRx.rxq = [] := rfl
@[simp] theorem State.flushRx_txFull (s : State) : s.flushRx.txFull = s.txFull := rfl
@[simp] theorem State.flushRx_txHold (s : State) : s.flushRx.txHold = s.txHold := rfl
@[simp] theorem State.flushRx_hostOut (s : State) : s.flushRx.hostOut = s.hostOut := rfl
@[simp] theorem State.flushRx_fault (s : State) : s.flushRx.fault = s.fault := rfl
@[simp] theorem State.flushRx_ret (s : State) : s.flushRx.ret = s.ret := rfl
@[simp] theorem State.flushRx_trace (s : State) : s.flushRx.trace = s.trace := rfl
@[simp] theorem State.flushRx_draws (s : State) : s.flushRx.draws = s.draws := rfl

/-! State.sendByte -/

@[simp] theorem State.sendByte_params (s : State) (b : Byte) : (s.sendByte b).params = s.params := rfl
@[simp] theorem State.sendByte_st (s : State) (b : Byte) : (s.sendByte b).st = s.st := rfl
@[simp] theorem State.sendByte_ph (s : State) (b : Byte) : (s.sendByte b).ph = s.ph := rfl
@[simp] theorem State.sendByte_entry (s : State) (b : Byte) : (s.sendByte b).entry = s.entry := rfl
@[simp] theorem State.sendByte_batch (s : State) (b : Byte) : (s.sendByte b).batch = s.batch := rfl
@[simp] theorem State.sendByte_wr (s : State) (b : Byte) : (s.sendByte b).wr = s.wr := rfl
@[simp] theorem State.sendByte_rd (s : State) (b : Byte) : (s.sendByte b).rd = s.rd := rfl
@[simp] theorem State.sendByte_trig (s : State) (b : Byte) : (s.sendByte b).trig = s.trig := rfl
@[simp] theorem State.sendByte_cmdS (s : State) (b : Byte) : (s.sendByte b).cmdS = s.cmdS := rfl
@[simp] theorem State.sendByte_cmdO (s : State) (b : Byte) : (s.sendByte b).cmdO = s.cmdO := rfl
@[simp] theorem State.sendByte_ind (s : State) (b : Byte) : (s.sendByte b).ind = s.ind := rfl
@[simp] theorem State.sendByte_buf (s : State) (b : Byte) : (s.sendByte b).buf = s.buf := rfl
@[simp] theorem State.sendByte_adcBusy (s : State) (b : Byte) : (s.sendByte b).adcBusy = s.adcBusy := rfl
@[simp] theorem State.sendByte_adcDone (s : State) (b : Byte) : (s.sendByte b).adcDone = s.adcDone := rfl
@[simp] theorem State.sendByte_adcRes (s : State) (b : Byte) : (s.sendByte b).adcRes = s.adcRes := rfl
@[simp] theorem State.sendByte_rxq (s : State) (b : Byte) : (s.sendByte b).rxq = s.rxq := rfl
@[simp] theorem State.sendByte_txFull (s : State) (b : Byte) : (s.sendByte b).txFull = true := rfl
@[simp] theorem State.sendByte_txHold (s : State) (b : Byte) : (s.sendByte b).txHold = some b := rfl
@[simp] theorem State.sendByte_hostOut (s : State) (b : Byte) : (s.sendByte b).hostOut = s.hostOut := rfl
@[simp] theorem State.sendByte_fault (s : State) (b : Byte) : (s.sendByte b).fault = s.fault := rfl
@[simp] theorem State.sendByte_ret (s : State) (b : Byte) : (s.sendByte b).ret = s.ret := rfl
@[simp] theorem State.sendByte_trace (s : State) (b : Byte) : (s.sendByte b).trace = s.trace := rfl
@[simp] theorem State.sendByte_draws (s : State) (b : Byte) : (s.sendByte b).draws = s.draws := rfl

/-! State.completeConversion -/

@[simp] theorem State.completeConversion_params (s : State) (v : Sample) : (s.completeConversion v).params = s.params := rfl
@[simp] theorem State.completeConversion_st (s : State) (v : Sample) : (s.completeConversion v).st = s.st := rfl
@[simp] theorem State.completeConversion_ph (s : State) (v : Sample) : (s.completeConversion v).ph = s.ph := rfl
@[simp] theorem State.completeConversion_entry (s : State) (v : Sample) : (s.completeConversion v).entry = s.entry := rfl
@[simp] theorem State.completeConversion_batch (s : State) (v : Sample) : (s.completeConversion v).batch = s.batch := rfl
@[simp] theorem State.completeConversion_wr (s : State) (v : Sample) : (s.completeConversion v).wr = s.wr := rfl
@[simp] theorem State.completeConversion_rd (s : State) (v : Sample) : (s.completeConversion v).rd = s.rd := rfl
@[simp] theorem State.completeConversion_trig (s : State) (v : Sample) : (s.completeConversion v).trig = s.trig := rfl
@[simp] theorem State.completeConversion_cmdS (s : State) (v : Sample) : (s.completeConversion v).cmdS = s.cmdS := rfl
@[simp] theorem State.completeConversion_cmdO (s : State) (v : Sample) : (s.completeConversion v).cmdO = s.cmdO := rfl
@[simp] theorem State.completeConversion_ind (s : State) (v : Sample) : (s.completeConversion v).ind = s.ind := rfl
@[simp] theorem State.completeConversion_buf (s : State) (v : Sample) : (s.completeConversion v).buf = s.buf := rfl
@[simp] theorem State.completeConversion_adcBusy (s : State) (v : Sample) : (s.completeConversion v).adcBusy = false := rfl
@[simp] theorem State.completeConversion_adcDone (s : State) (v : Sample) : (s.completeConversion v).adcDone = true := rfl
@[simp] theorem State.completeConversion_adcRes (s : State) (v : Sample) : (s.completeConversion v).adcRes = some v := rfl
@[simp] theorem State.completeConversion_rxq (s : State) (v : Sample) : (s.completeConversion v).rxq = s.rxq := rfl
@[simp] theorem State.completeConversion_txFull (s : State) (v : Sample) : (s.completeConversion v).txFull = s.txFull := rfl
@[simp] theorem State.completeConversion_txHold (s : State) (v : Sample) : (s.completeConversion v).txHold = s.txHold := rfl
@[simp] theorem State.completeConversion_hostOut (s : State) (v : Sample) : (s.completeConversion v).hostOut = s.hostOut := rfl
@[simp] theorem State.completeConversion_fault (s : State) (v : Sample) : (s.completeConversion v).fault = s.fault := rfl
@[simp] theorem State.completeConversion_ret (s : State) (v : Sample) : (s.completeConversion v).ret = s.ret := rfl
@[simp] theorem State.completeConversion_trace (s : State) (v : Sample) : (s.completeConversion v).trace = s.trace := rfl
@[simp] theorem State.completeConversion_draws (s : State) (v : Sample) : (s.completeConversion v).draws = s.draws := rfl

/-! State.setCell -/

@[simp] theorem State.setCell_params (c : SignalCell) (s : State) : (s.setCell c).params = s.params := by cases c <;> rfl
@[simp] theorem State.setCell_st (c : SignalCell) (s : State) : (s.setCell c).st = s.st := by cases c <;> rfl
@[simp] theorem State.setCell_ph (c : SignalCell) (s : State) : (s.setCell c).ph = s.ph := by cases c <;> rfl
@[simp] theorem State.setCell_entry (c : SignalCell) (s : State) : (s.setCell c).entry = s.entry := by cases c <;> rfl
@[simp] theorem State.setCell_batch (c : SignalCell) (s : State) : (s.setCell c).batch = s.batch := by cases c <;> rfl
@[simp] theorem State.setCell_wr (c : SignalCell) (s : State) : (s.setCell c).wr = s.wr := by cases c <;> rfl
@[simp] theorem State.setCell_rd (c : SignalCell) (s : State) : (s.setCell c).rd = s.rd := by cases c <;> rfl
@[simp] theorem State.setCell_trig_trig (s : State) : (s.setCell .trig).trig = true := rfl
@[simp] theorem State.setCell_cmdS_trig (s : State) : (s.setCell .cmdS).trig = s.trig := rfl
@[simp] theorem State.setCell_cmdO_trig (s : State) : (s.setCell .cmdO).trig = s.trig := rfl
@[simp] theorem State.setCell_trig_cmdS (s : State) : (s.setCell .trig).cmdS = s.cmdS := rfl
@[simp] theorem State.setCell_cmdS_cmdS (s : State) : (s.setCell .cmdS).cmdS = true := rfl
@[simp] theorem State.setCell_cmdO_cmdS (s : State) : (s.setCell .cmdO).cmdS = s.cmdS := rfl
@[simp] theorem State.setCell_trig_cmdO (s : State) : (s.setCell .trig).cmdO = s.cmdO := rfl
@[simp] theorem State.setCell_cmdS_cmdO (s : State) : (s.setCell .cmdS).cmdO = s.cmdO := rfl
@[simp] theorem State.setCell_cmdO_cmdO (s : State) : (s.setCell .cmdO).cmdO = true := rfl
@[simp] theorem State.setCell_ind (c : SignalCell) (s : State) : (s.setCell c).ind = s.ind := by cases c <;> rfl
@[simp] theorem State.setCell_buf (c : SignalCell) (s : State) : (s.setCell c).buf = s.buf := by cases c <;> rfl
@[simp] theorem State.setCell_adcBusy (c : SignalCell) (s : State) : (s.setCell c).adcBusy = s.adcBusy := by cases c <;> rfl
@[simp] theorem State.setCell_adcDone (c : SignalCell) (s : State) : (s.setCell c).adcDone = s.adcDone := by cases c <;> rfl
@[simp] theorem State.setCell_adcRes (c : SignalCell) (s : State) : (s.setCell c).adcRes = s.adcRes := by cases c <;> rfl
@[simp] theorem State.setCell_rxq (c : SignalCell) (s : State) : (s.setCell c).rxq = s.rxq := by cases c <;> rfl
@[simp] theorem State.setCell_txFull (c : SignalCell) (s : State) : (s.setCell c).txFull = s.txFull := by cases c <;> rfl
@[simp] theorem State.setCell_txHold (c : SignalCell) (s : State) : (s.setCell c).txHold = s.txHold := by cases c <;> rfl
@[simp] theorem State.setCell_hostOut (c : SignalCell) (s : State) : (s.setCell c).hostOut = s.hostOut := by cases c <;> rfl
@[simp] theorem State.setCell_fault (c : SignalCell) (s : State) : (s.setCell c).fault = s.fault := by cases c <;> rfl
@[simp] theorem State.setCell_ret (c : SignalCell) (s : State) : (s.setCell c).ret = s.ret := by cases c <;> rfl
@[simp] theorem State.setCell_trace (c : SignalCell) (s : State) : (s.setCell c).trace = s.trace := by cases c <;> rfl
@[simp] theorem State.setCell_draws (c : SignalCell) (s : State) : (s.setCell c).draws = s.draws := by cases c <;> rfl

/-! State.clearCell -/

@[simp] theorem State.clearCell_params (c : SignalCell) (s : State) : (s.clearCell c).params = s.params := by cases c <;> rfl
@[simp] theorem State.clearCell_st (c : SignalCell) (s : State) : (s.clearCell c).st = s.st := by cases c <;> rfl
@[simp] theorem State.clearCell_ph (c : SignalCell) (s : State) : (s.clearCell c).ph = s.ph := by cases c <;> rfl
@[simp] theorem State.clearCell_entry (c : SignalCell) (s : State) : (s.clearCell c).entry = s.entry := by cases c <;> rfl
@[simp] theorem State.clearCell_batch (c : SignalCell) (s : State) : (s.clearCell c).batch = s.batch := by cases c <;> rfl
@[simp] theorem State.clearCell_wr (c : SignalCell) (s : State) : (s.clearCell c).wr = s.wr := by cases c <;> rfl
@[simp] theorem State.clearCell_rd (c : SignalCell) (s : State) : (s.clearCell c).rd = s.rd := by cases c <;> rfl
@[simp] theorem State.clearCell_trig_trig (s : State) : (s.clearCell .trig).trig = false := rfl
@[simp] theorem State.clearCell_cmdS_trig (s : State) : (s.clearCell .cmdS).trig = s.trig := rfl
@[simp] theorem State.clearCell_cmdO_trig (s : State) : (s.clearCell .cmdO).trig = s.trig := rfl
@[simp] theorem State.clearCell_trig_cmdS (s : State) : (s.clearCell .trig).cmdS = s.cmdS := rfl
@[simp] theorem State.clearCell_cmdS_cmdS (s : State) : (s.clearCell .cmdS).cmdS = false := rfl
@[simp] theorem State.clearCell_cmdO_cmdS (s : State) : (s.clearCell .cmdO).cmdS = s.cmdS := rfl
@[simp] theorem State.clearCell_trig_cmdO (s : State) : (s.clearCell .trig).cmdO = s.cmdO := rfl
@[simp] theorem State.clearCell_cmdS_cmdO (s : State) : (s.clearCell .cmdS).cmdO = s.cmdO := rfl
@[simp] theorem State.clearCell_cmdO_cmdO (s : State) : (s.clearCell .cmdO).cmdO = false := rfl
@[simp] theorem State.clearCell_ind (c : SignalCell) (s : State) : (s.clearCell c).ind = s.ind := by cases c <;> rfl
@[simp] theorem State.clearCell_buf (c : SignalCell) (s : State) : (s.clearCell c).buf = s.buf := by cases c <;> rfl
@[simp] theorem State.clearCell_adcBusy (c : SignalCell) (s : State) : (s.clearCell c).adcBusy = s.adcBusy := by cases c <;> rfl
@[simp] theorem State.clearCell_adcDone (c : SignalCell) (s : State) : (s.clearCell c).adcDone = s.adcDone := by cases c <;> rfl
@[simp] theorem State.clearCell_adcRes (c : SignalCell) (s : State) : (s.clearCell c).adcRes = s.adcRes := by cases c <;> rfl
@[simp] theorem State.clearCell_rxq (c : SignalCell) (s : State) : (s.clearCell c).rxq = s.rxq := by cases c <;> rfl
@[simp] theorem State.clearCell_txFull (c : SignalCell) (s : State) : (s.clearCell c).txFull = s.txFull := by cases c <;> rfl
@[simp] theorem State.clearCell_txHold (c : SignalCell) (s : State) : (s.clearCell c).txHold = s.txHold := by cases c <;> rfl
@[simp] theorem State.clearCell_hostOut (c : SignalCell) (s : State) : (s.clearCell c).hostOut = s.hostOut := by cases c <;> rfl
@[simp] theorem State.clearCell_fault (c : SignalCell) (s : State) : (s.clearCell c).fault = s.fault := by cases c <;> rfl
@[simp] theorem State.clearCell_ret (c : SignalCell) (s : State) : (s.clearCell c).ret = s.ret := by cases c <;> rfl
@[simp] theorem State.clearCell_trace (c : SignalCell) (s : State) : (s.clearCell c).trace = s.trace := by cases c <;> rfl
@[simp] theorem State.clearCell_draws (c : SignalCell) (s : State) : (s.clearCell c).draws = s.draws := by cases c <;> rfl

/-! State.testAndClear -/

@[simp] theorem State.testAndClear_fst (c : SignalCell) (s : State) : (s.testAndClear c).1 = s.cell c := rfl
@[simp] theorem State.testAndClear_snd (c : SignalCell) (s : State) : (s.testAndClear c).2 = s.clearCell c := rfl
@[simp] theorem State.cell_trig (s : State) : s.cell .trig = s.trig := rfl
@[simp] theorem State.cell_cmdS (s : State) : s.cell .cmdS = s.cmdS := rfl
@[simp] theorem State.cell_cmdO (s : State) : s.cell .cmdO = s.cmdO := rfl

/-! State.resetKeeping -/

@[simp] theorem State.resetKeeping_params (s : State) : s.resetKeeping.params = s.params := rfl
@[simp] theorem State.resetKeeping_st (s : State) : s.resetKeeping.st = ST.idle := rfl
@[simp] theorem State.resetKeeping_ph (s : State) : s.resetKeeping.ph = PH.top := rfl
@[simp] theorem State.resetKeeping_entry (s : State) : s.resetKeeping.entry = true := rfl
@[simp] theorem State.resetKeeping_batch (s : State) : s.resetKeeping.batch = 0 := rfl
@[simp] theorem State.resetKeeping_wr (s : State) : s.resetKeeping.wr = 0 := rfl
@[simp] theorem State.resetKeeping_rd (s : State) : s.resetKeeping.rd = 0 := rfl
@[simp] theorem State.resetKeeping_trig (s : State) : s.resetKeeping.trig = false := rfl
@[simp] theorem State.resetKeeping_cmdS (s : State) : s.resetKeeping.cmdS = false := rfl
@[simp] theorem State.resetKeeping_cmdO (s : State) : s.resetKeeping.cmdO = false := rfl
@[simp] theorem State.resetKeeping_ind (s : State) : s.resetKeeping.ind = none := rfl
@[simp] theorem State.resetKeeping_buf (s : State) : s.resetKeeping.buf = [] := rfl
@[simp] theorem State.resetKeeping_adcBusy (s : State) : s.resetKeeping.adcBusy = false := rfl
@[simp] theorem State.resetKeeping_adcDone (s : State) : s.resetKeeping.adcDone = false := rfl
@[simp] theorem State.resetKeeping_adcRes (s : State) : s.resetKeeping.adcRes = none := rfl
@[simp] theorem State.resetKeeping_rxq (s : State) : s.resetKeeping.rxq = [] := rfl
@[simp] theorem State.resetKeeping_txFull (s : State) : s.resetKeeping.txFull = false := rfl
@[simp] theorem State.resetKeeping_txHold (s : State) : s.resetKeeping.txHold = none := rfl
@[simp] theorem State.resetKeeping_hostOut (s : State) : s.resetKeeping.hostOut = [] := rfl
@[simp] theorem State.resetKeeping_fault (s : State) : s.resetKeeping.fault = none := rfl
@[simp] theorem State.resetKeeping_ret (s : State) : s.resetKeeping.ret = none := rfl
@[simp] theorem State.resetKeeping_trace (s : State) : s.resetKeeping.trace = s.trace := rfl
@[simp] theorem State.resetKeeping_draws (s : State) : s.resetKeeping.draws = s.draws := rfl

/-! State.readAdcRes, State.heldByte, State.receive, State.hostSends, State.shiftOut: the fields they leave alone -/

@[simp] theorem State.readAdcRes_params (s : State) : s.readAdcRes.2.params = s.params := by
  unfold State.readAdcRes; split <;> rfl
@[simp] theorem State.readAdcRes_st (s : State) : s.readAdcRes.2.st = s.st := by
  unfold State.readAdcRes; split <;> rfl
@[simp] theorem State.readAdcRes_ph (s : State) : s.readAdcRes.2.ph = s.ph := by
  unfold State.readAdcRes; split <;> rfl
@[simp] theorem State.readAdcRes_entry (s : State) : s.readAdcRes.2.entry = s.entry := by
  unfold State.readAdcRes; split <;> rfl
@[simp] theorem State.readAdcRes_batch (s : State) : s.readAdcRes.2.batch = s.batch := by
  unfold State.readAdcRes; split <;> rfl
@[simp] theorem State.readAdcRes_wr (s : State) : s.readAdcRes.2.wr = s.wr := by
  unfold State.readAdcRes; split <;> rfl
@[simp] theorem State.readAdcRes_rd (s : State) : s.readAdcRes.2.rd = s.rd := by
  unfold State.readAdcRes; split <;> rfl
@[simp] theorem State.readAdcRes_trig (s : State) : s.readAdcRes.2.trig = s.trig := by
  unfold State.readAdcRes; split <;> rfl
@[simp] theorem State.readAdcRes_cmdS (s : State) : s.readAdcRes.2.cmdS = s.cmdS := by
  unfold State.readAdcRes; split <;> rfl
@[simp] theorem State.readAdcRes_cmdO (s : State) : s.readAdcRes.2.cmdO = s.cmdO := by
  unfold State.readAdcRes; split <;> rfl
@[simp] theorem State.readAdcRes_ind (s : State) : s.readAdcRes.2.ind = s.ind := by
  unfold State.readAdcRes; split <;> rfl
@[simp] theorem State.readAdcRes_buf (s : State) : s.readAdcRes.2.buf = s.buf := by
  unfold State.readAdcRes; split <;> rfl
@[simp] theorem State.readAdcRes_adcBusy (s : State) : s.readAdcRes.2.adcBusy = s.adcBusy := by
  unfold State.readAdcRes; split <;> rfl
@[simp] theorem State.readAdcRes_adcDone (s : State) : s.readAdcRes.2.adcDone = s.adcDone := by
  unfold State.readAdcRes; split <;> rfl
@[simp] theorem State.readAdcRes_adcRes (s : State) : s.readAdcRes.2.adcRes = s.adcRes := by
  unfold State.readAdcRes; split <;> rfl
@[simp] theorem State.readAdcRes_rxq (s : State) : s.readAdcRes.2.rxq = s.rxq := by
  unfold State.readAdcRes; split <;> rfl
@[simp] theorem State.readAdcRes_txFull (s : State) : s.readAdcRes.2.txFull = s.txFull := by
  unfold State.readAdcRes; split <;> rfl
@[simp] theorem State.readAdcRes_txHold (s : State) : s.readAdcRes.2.txHold = s.txHold := by
  unfold State.readAdcRes; split <;> rfl
@[simp] theorem State.readAdcRes_hostOut (s : State) : s.readAdcRes.2.hostOut = s.hostOut := by
  unfold State.readAdcRes; split <;> rfl
@[simp] theorem State.readAdcRes_fault (s : State) : s.readAdcRes.2.fault = s.fault := by
  unfold State.readAdcRes; split <;> rfl
@[simp] theorem State.readAdcRes_ret (s : State) : s.readAdcRes.2.ret = s.ret := by
  unfold State.readAdcRes; split <;> rfl
@[simp] theorem State.readAdcRes_trace (s : State) : s.readAdcRes.2.trace = s.trace := by
  unfold State.readAdcRes; split <;> rfl
@[simp] theorem State.heldByte_params (s : State) : s.heldByte.2.params = s.params := by
  unfold State.heldByte; split <;> rfl
@[simp] theorem State.heldByte_st (s : State) : s.heldByte.2.st = s.st := by
  unfold State.heldByte; split <;> rfl
@[simp] theorem State.heldByte_ph (s : State) : s.heldByte.2.ph = s.ph := by
  unfold State.heldByte; split <;> rfl
@[simp] theorem State.heldByte_entry (s : State) : s.heldByte.2.entry = s.entry := by
  unfold State.heldByte; split <;> rfl
@[simp] theorem State.heldByte_batch (s : State) : s.heldByte.2.batch = s.batch := by
  unfold State.heldByte; split <;> rfl
@[simp] theorem State.heldByte_wr (s : State) : s.heldByte.2.wr = s.wr := by
  unfold State.heldByte; split <;> rfl
@[simp] theorem State.heldByte_rd (s : State) : s.heldByte.2.rd = s.rd := by
  unfold State.heldByte; split <;> rfl
@[simp] theorem State.heldByte_trig (s : State) : s.heldByte.2.trig = s.trig := by
  unfold State.heldByte; split <;> rfl
@[simp] theorem State.heldByte_cmdS (s : State) : s.heldByte.2.cmdS = s.cmdS := by
  unfold State.heldByte; split <;> rfl
@[simp] theorem State.heldByte_cmdO (s : State) : s.heldByte.2.cmdO = s.cmdO := by
  unfold State.heldByte; split <;> rfl
@[simp] theorem State.heldByte_ind (s : State) : s.heldByte.2.ind = s.ind := by
  unfold State.heldByte; split <;> rfl
@[simp] theorem State.heldByte_buf (s : State) : s.heldByte.2.buf = s.buf := by
  unfold State.heldByte; split <;> rfl
@[simp] theorem State.heldByte_adcBusy (s : State) : s.heldByte.2.adcBusy = s.adcBusy := by
  unfold State.heldByte; split <;> rfl
@[simp] theorem State.heldByte_adcDone (s : State) : s.heldByte.2.adcDone = s.adcDone := by
  unfold State.heldByte; split <;> rfl
@[simp] theorem State.heldByte_adcRes (s : State) : s.heldByte.2.adcRes = s.adcRes := by
  unfold State.heldByte; split <;> rfl
@[simp] theorem State.heldByte_rxq (s : State) : s.heldByte.2.rxq = s.rxq := by
  unfold State.heldByte; split <;> rfl
@[simp] theorem State.heldByte_txFull (s : State) : s.heldByte.2.txFull = s.txFull := by
  unfold State.heldByte; split <;> rfl
@[simp] theorem State.heldByte_txHold (s : State) : s.heldByte.2.txHold = s.txHold := by
  unfold State.heldByte; split <;> rfl
@[simp] theorem State.heldByte_hostOut (s : State) : s.heldByte.2.hostOut = s.hostOut := by
  unfold State.heldByte; split <;> rfl
@[simp] theorem State.heldByte_fault (s : State) : s.heldByte.2.fault = s.fault := by
  unfold State.heldByte; split <;> rfl
@[simp] theorem State.heldByte_ret (s : State) : s.heldByte.2.ret = s.ret := by
  unfold State.heldByte; split <;> rfl
@[simp] theorem State.heldByte_trace (s : State) : s.heldByte.2.trace = s.trace := by
  unfold State.heldByte; split <;> rfl
@[simp] theorem State.receive_params (s : State) (d : Bool) (b : Byte) : (s.receive d b).params = s.params := by
  unfold State.receive; split <;> [rfl; (split <;> rfl)]
@[simp] theorem State.receive_st (s : State) (d : Bool) (b : Byte) : (s.receive d b).st = s.st := by
  unfold State.receive; split <;> [rfl; (split <;> rfl)]
@[simp] theorem State.receive_ph (s : State) (d : Bool) (b : Byte) : (s.receive d b).ph = s.ph := by
  unfold State.receive; split <;> [rfl; (split <;> rfl)]
@[simp] theorem State.receive_entry (s : State) (d : Bool) (b : Byte) : (s.receive d b).entry = s.entry := by
  unfold State.receive; split <;> [rfl; (split <;> rfl)]
@[simp] theorem State.receive_batch (s : State) (d : Bool) (b : Byte) : (s.receive d b).batch = s.batch := by
  unfold State.receive; split <;> [rfl; (split <;> rfl)]
@[simp] theorem State.receive_wr (s : State) (d : Bool) (b : Byte) : (s.receive d b).wr = s.wr := by
  unfold State.receive; split <;> [rfl; (split <;> rfl)]
@[simp] theorem State.receive_rd (s : State) (d : Bool) (b : Byte) : (s.receive d b).rd = s.rd := by
  unfold State.receive; split <;> [rfl; (split <;> rfl)]
@[simp] theorem State.receive_trig (s : State) (d : Bool) (b : Byte) : (s.receive d b).trig = s.trig := by
  unfold State.receive; split <;> [rfl; (split <;> rfl)]
@[simp] theorem State.receive_cmdS (s : State) (d : Bool) (b : Byte) : (s.receive d b).cmdS = s.cmdS := by
  unfold State.receive; split <;> [rfl; (split <;> rfl)]
@[simp] theorem State.receive_cmdO (s : State) (d : Bool) (b : Byte) : (s.receive d b).cmdO = s.cmdO := by
  unfold State.receive; split <;> [rfl; (split <;> rfl)]
@[simp] theorem State.receive_ind (s : State) (d : Bool) (b : Byte) : (s.receive d b).ind = s.ind := by
  unfold State.receive; split <;> [rfl; (split <;> rfl)]
@[simp] theorem State.receive_buf (s : State) (d : Bool) (b : Byte) : (s.receive d b).buf = s.buf := by
  unfold State.receive; split <;> [rfl; (split <;> rfl)]
@[simp] theorem State.receive_adcBusy (s : State) (d : Bool) (b : Byte) : (s.receive d b).adcBusy = s.adcBusy := by
  unfold State.receive; split <;> [rfl; (split <;> rfl)]
@[simp] theorem State.receive_adcDone (s : State) (d : Bool) (b : Byte) : (s.receive d b).adcDone = s.adcDone := by
  unfold State.receive; split <;> [rfl; (split <;> rfl)]
@[simp] theorem State.receive_adcRes (s : State) (d : Bool) (b : Byte) : (s.receive d b).adcRes = s.adcRes := by
  unfold State.receive; split <;> [rfl; (split <;> rfl)]
@[simp] theorem State.receive_txFull (s : State) (d : Bool) (b : Byte) : (s.receive d b).txFull = s.txFull := by
  unfold State.receive; split <;> [rfl; (split <;> rfl)]
@[simp] theorem State.receive_txHold (s : State) (d : Bool) (b : Byte) : (s.receive d b).txHold = s.txHold := by
  unfold State.receive; split <;> [rfl; (split <;> rfl)]
@[simp] theorem State.receive_hostOut (s : State) (d : Bool) (b : Byte) : (s.receive d b).hostOut = s.hostOut := by
  unfold State.receive; split <;> [rfl; (split <;> rfl)]
@[simp] theorem State.receive_fault (s : State) (d : Bool) (b : Byte) : (s.receive d b).fault = s.fault := by
  unfold State.receive; split <;> [rfl; (split <;> rfl)]
@[simp] theorem State.receive_ret (s : State) (d : Bool) (b : Byte) : (s.receive d b).ret = s.ret := by
  unfold State.receive; split <;> [rfl; (split <;> rfl)]
@[simp] theorem State.receive_trace (s : State) (d : Bool) (b : Byte) : (s.receive d b).trace = s.trace := by
  unfold State.receive; split <;> [rfl; (split <;> rfl)]
@[simp] theorem State.receive_draws (s : State) (d : Bool) (b : Byte) : (s.receive d b).draws = s.draws := by
  unfold State.receive; split <;> [rfl; (split <;> rfl)]
@[simp] theorem State.hostSends_params (s : State) (b : Byte) : (s.hostSends b).params = s.params := by
  unfold State.hostSends; split <;> simp
@[simp] theorem State.hostSends_st (s : State) (b : Byte) : (s.hostSends b).st = s.st := by
  unfold State.hostSends; split <;> simp
@[simp] theorem State.hostSends_ph (s : State) (b : Byte) : (s.hostSends b).ph = s.ph := by
  unfold State.hostSends; split <;> simp
@[simp] theorem State.hostSends_entry (s : State) (b : Byte) : (s.hostSends b).entry = s.entry := by
  unfold State.hostSends; split <;> simp
@[simp] theorem State.hostSends_batch (s : State) (b : Byte) : (s.hostSends b).batch = s.batch := by
  unfold State.hostSends; split <;> simp
@[simp] theorem State.hostSends_wr (s : State) (b : Byte) : (s.hostSends b).wr = s.wr := by
  unfold State.hostSends; split <;> simp
@[simp] theorem State.hostSends_rd (s : State) (b : Byte) : (s.hostSends b).rd = s.rd := by
  unfold State.hostSends; split <;> simp
@[simp] theorem State.hostSends_trig (s : State) (b : Byte) : (s.hostSends b).trig = s.trig := by
  unfold State.hostSends; split <;> simp
@[simp] theorem State.hostSends_cmdS (s : State) (b : Byte) : (s.hostSends b).cmdS = s.cmdS := by
  unfold State.hostSends; split <;> simp
@[simp] theorem State.hostSends_cmdO (s : State) (b : Byte) : (s.hostSends b).cmdO = s.cmdO := by
  unfold State.hostSends; split <;> simp
@[simp] theorem State.hostSends_ind (s : State) (b : Byte) : (s.hostSends b).ind = s.ind := by
  unfold State.hostSends; split <;> simp
@[simp] theorem State.hostSends_buf (s : State) (b : Byte) : (s.hostSends b).buf = s.buf := by
  unfold State.hostSends; split <;> simp
@[simp] theorem State.hostSends_adcBusy (s : State) (b : Byte) : (s.hostSends b).adcBusy = s.adcBusy := by
  unfold State.hostSends; split <;> simp
@[simp] theorem State.hostSends_adcDone (s : State) (b : Byte) : (s.hostSends b).adcDone = s.adcDone := by
  unfold State.hostSends; split <;> simp
@[simp] theorem State.hostSends_adcRes (s : State) (b : Byte) : (s.hostSends b).adcRes = s.adcRes := by
  unfold State.hostSends; split <;> simp
@[simp] theorem State.hostSends_txFull (s : State) (b : Byte) : (s.hostSends b).txFull = s.txFull := by
  unfold State.hostSends; split <;> simp
@[simp] theorem State.hostSends_txHold (s : State) (b : Byte) : (s.hostSends b).txHold = s.txHold := by
  unfold State.hostSends; split <;> simp
@[simp] theorem State.hostSends_hostOut (s : State) (b : Byte) : (s.hostSends b).hostOut = s.hostOut := by
  unfold State.hostSends; split <;> simp
@[simp] theorem State.hostSends_fault (s : State) (b : Byte) : (s.hostSends b).fault = s.fault := by
  unfold State.hostSends; split <;> simp
@[simp] theorem State.hostSends_ret (s : State) (b : Byte) : (s.hostSends b).ret = s.ret := by
  unfold State.hostSends; split <;> simp
@[simp] theorem State.hostSends_trace (s : State) (b : Byte) : (s.hostSends b).trace = s.trace := by
  unfold State.hostSends; split <;> simp
@[simp] theorem State.shiftOut_params (s : State) : s.shiftOut.params = s.params := State.heldByte_params s
@[simp] theorem State.shiftOut_st (s : State) : s.shiftOut.st = s.st := State.heldByte_st s
@[simp] theorem State.shiftOut_ph (s : State) : s.shiftOut.ph = s.ph := State.heldByte_ph s
@[simp] theorem State.shiftOut_entry (s : State) : s.shiftOut.entry = s.entry := State.heldByte_entry s
@[simp] theorem State.shiftOut_batch (s : State) : s.shiftOut.batch = s.batch := State.heldByte_batch s
@[simp] theorem State.shiftOut_wr (s : State) : s.shiftOut.wr = s.wr := State.heldByte_wr s
@[simp] theorem State.shiftOut_rd (s : State) : s.shiftOut.rd = s.rd := State.heldByte_rd s
@[simp] theorem State.shiftOut_trig (s : State) : s.shiftOut.trig = s.trig := State.heldByte_trig s
@[simp] theorem State.shiftOut_cmdS (s : State) : s.shiftOut.cmdS = s.cmdS := State.heldByte_cmdS s
@[simp] theorem State.shiftOut_cmdO (s : State) : s.shiftOut.cmdO = s.cmdO := State.heldByte_cmdO s
@[simp] theorem State.shiftOut_ind (s : State) : s.shiftOut.ind = s.ind := State.heldByte_ind s
@[simp] theorem State.shiftOut_buf (s : State) : s.shiftOut.buf = s.buf := State.heldByte_buf s
@[simp] theorem State.shiftOut_adcBusy (s : State) : s.shiftOut.adcBusy = s.adcBusy := State.heldByte_adcBusy s
@[simp] theorem State.shiftOut_adcDone (s : State) : s.shiftOut.adcDone = s.adcDone := State.heldByte_adcDone s
@[simp] theorem State.shiftOut_adcRes (s : State) : s.shiftOut.adcRes = s.adcRes := State.heldByte_adcRes s
@[simp] theorem State.shiftOut_rxq (s : State) : s.shiftOut.rxq = s.rxq := State.heldByte_rxq s
@[simp] theorem State.shiftOut_txFull (s : State) : s.shiftOut.txFull = false := rfl
@[simp] theorem State.shiftOut_txHold (s : State) : s.shiftOut.txHold = s.txHold := State.heldByte_txHold s
@[simp] theorem State.shiftOut_hostOut (s : State) : s.shiftOut.hostOut = s.hostOut ++ [s.heldByte.1] := rfl
@[simp] theorem State.shiftOut_fault (s : State) : s.shiftOut.fault = s.fault := State.heldByte_fault s
@[simp] theorem State.shiftOut_ret (s : State) : s.shiftOut.ret = s.ret := State.heldByte_ret s
@[simp] theorem State.shiftOut_trace (s : State) : s.shiftOut.trace = s.trace := State.heldByte_trace s
@[simp] theorem State.takeHostByte_params (s : State) (b : Byte) : (s.takeHostByte b).params = s.params := by
  unfold State.takeHostByte; split <;> [rfl; (split <;> rfl)]
@[simp] theorem State.takeHostByte_st (s : State) (b : Byte) : (s.takeHostByte b).st = s.st := by
  unfold State.takeHostByte; split <;> [rfl; (split <;> rfl)]
@[simp] theorem State.takeHostByte_ph (s : State) (b : Byte) : (s.takeHostByte b).ph = s.ph := by
  unfold State.takeHostByte; split <;> [rfl; (split <;> rfl)]
@[simp] theorem State.takeHostByte_entry (s : State) (b : Byte) : (s.takeHostByte b).entry = s.entry := by
  unfold State.takeHostByte; split <;> [rfl; (split <;> rfl)]
@[simp] theorem State.takeHostByte_batch (s : State) (b : Byte) : (s.takeHostByte b).batch = s.batch := by
  unfold State.takeHostByte; split <;> [rfl; (split <;> rfl)]
@[simp] theorem State.takeHostByte_wr (s : State) (b : Byte) : (s.takeHostByte b).wr = s.wr := by
  unfold State.takeHostByte; split <;> [rfl; (split <;> rfl)]
@[simp] theorem State.takeHostByte_rd (s : State) (b : Byte) : (s.takeHostByte b).rd = s.rd := by
  unfold State.takeHostByte; split <;> [rfl; (split <;> rfl)]
@[simp] theorem State.takeHostByte_trig (s : State) (b : Byte) : (s.takeHostByte b).trig = s.trig := by
  unfold State.takeHostByte; split <;> [rfl; (split <;> rfl)]
@[simp] theorem State.takeHostByte_ind (s : State) (b : Byte) : (s.takeHostByte b).ind = s.ind := by
  unfold State.takeHostByte; split <;> [rfl; (split <;> rfl)]
@[simp] theorem State.takeHostByte_buf (s : State) (b : Byte) : (s.takeHostByte b).buf = s.buf := by
  unfold State.takeHostByte; split <;> [rfl; (split <;> rfl)]
@[simp] theorem State.takeHostByte_adcBusy (s : State) (b : Byte) : (s.takeHostByte b).adcBusy = s.adcBusy := by
  unfold State.takeHostByte; split <;> [rfl; (split <;> rfl)]
@[simp] theorem State.takeHostByte_adcDone (s : State) (b : Byte) : (s.takeHostByte b).adcDone = s.adcDone := by
  unfold State.takeHostByte; split <;> [rfl; (split <;> rfl)]
@[simp] theorem State.takeHostByte_adcRes (s : State) (b : Byte) : (s.takeHostByte b).adcRes = s.adcRes := by
  unfold State.takeHostByte; split <;> [rfl; (split <;> rfl)]
@[simp] theorem State.takeHostByte_rxq (s : State) (b : Byte) : (s.takeHostByte b).rxq = s.rxq := by
  unfold State.takeHostByte; split <;> [rfl; (split <;> rfl)]
@[simp] theorem State.takeHostByte_txFull (s : State) (b : Byte) : (s.takeHostByte b).txFull = s.txFull := by
  unfold State.takeHostByte; split <;> [rfl; (split <;> rfl)]
@[simp] theorem State.takeHostByte_txHold (s : State) (b : Byte) : (s.takeHostByte b).txHold = s.txHold := by
  unfold State.takeHostByte; split <;> [rfl; (split <;> rfl)]
@[simp] theorem State.takeHostByte_hostOut (s : State) (b : Byte) : (s.takeHostByte b).hostOut = s.hostOut := by
  unfold State.takeHostByte; split <;> [rfl; (split <;> rfl)]
@[simp] theorem State.takeHostByte_fault (s : State) (b : Byte) : (s.takeHostByte b).fault = s.fault := by
  unfold State.takeHostByte; split <;> [rfl; (split <;> rfl)]
@[simp] theorem State.takeHostByte_ret (s : State) (b : Byte) : (s.takeHostByte b).ret = s.ret := by
  unfold State.takeHostByte; split <;> [rfl; (split <;> rfl)]
@[simp] theorem State.takeHostByte_trace (s : State) (b : Byte) : (s.takeHostByte b).trace = s.trace := by
  unfold State.takeHostByte; split <;> [rfl; (split <;> rfl)]
@[simp] theorem State.takeHostByte_draws (s : State) (b : Byte) : (s.takeHostByte b).draws = s.draws := by
  unfold State.takeHostByte; split <;> [rfl; (split <;> rfl)]

end Sys2Proof.Machine
end

