-- ==== Sys2Proof/Laws/Ops.lean ====
section
/-! SUPPORT. What each shared operation can answer, once: the dispatch table of MAIN, performing a step under its guard,
and the small arithmetic. -/

namespace Sys2Proof.Machine

/-- Each MAIN step is the one its control point dispatches to (R112). -/
@[simp] theorem mainAt_control (m : MainStep) : mainAt m.control.1 m.control.2 = some m := by cases m <;> rfl

/-- A control point dispatches to at most the step whose own it is (R112). -/
theorem mainAt_eq_some_iff {st : BitVec 2} {ph : BitVec 4} {m : MainStep} :
    mainAt st ph = some m ↔ m.control = (st, ph) := by
  constructor
  · intro h
    have := List.find?_some h
    simpa using this
  · intro h
    have := mainAt_control m
    rwa [h] at this

theorem legalControl_iff {s : State} : s.legalControl = true ↔ ∃ m : MainStep, m.control = (s.st, s.ph) := by
  simp only [State.legalControl, Option.isSome_iff_exists, mainAt_eq_some_iff]

/-- A step at its own control point, with what it waits for there, is performed. -/
theorem performMain_of_ready {m : MainStep} {body : State → Except FaultReason State} {s : State}
    (hf : s.fault = none) (hc : m.control = (s.st, s.ph)) (hr : m.ready s = true) :
    performMain m body s = atomically m.toInstr.opid s (body s) := by
  simp [performMain, hf, mainAt_eq_some_iff.2 hc, hr]

/-- All performMain can do when it answers a next state. -/
theorem performMain_next {m : MainStep} {body : State → Except FaultReason State} {s t : State}
    (h : performMain m body s = .next t) :
    s.fault = none ∧
      ((s.legalControl = false ∧ t = s.raiseFault .badControl m.toInstr.opid) ∨
        (m.control = (s.st, s.ph) ∧ m.ready s = true ∧
          (body s = .ok t ∨ ∃ e, body s = .error e ∧ t = s.raiseFault e m.toInstr.opid))) := by
  simp only [performMain] at h
  split at h
  · next hf =>
    refine ⟨by simpa using hf, ?_⟩
    split at h
    · next hm => exact .inl ⟨by simp [State.legalControl, hm], by simpa using h.symm⟩
    · next k hm =>
      split at h
      · next hk =>
        simp only [Bool.and_eq_true, beq_iff_eq] at hk
        obtain ⟨rfl, hr⟩ := hk
        refine .inr ⟨mainAt_eq_some_iff.1 hm, hr, ?_⟩
        unfold atomically at h
        split at h
        · next u hu => exact .inl (by rw [hu]; simpa using h)
        · next e he => exact .inr ⟨e, he, by simpa using h.symm⟩
      · simp at h
  · simp at h

/-- An operation whose guard holds is performed. -/
theorem perform_of_guard {op : Opid} {g : Bool} {body : State → Except FaultReason State} {s : State}
    (hf : s.fault = none) (hg : g = true) : perform op g body s = atomically op s (body s) := by
  simp [perform, hf, hg]

/-- All perform can do when it answers a next state. -/
theorem perform_next {op : Opid} {g : Bool} {body : State → Except FaultReason State} {s t : State}
    (h : perform op g body s = .next t) :
    s.fault = none ∧ g = true ∧ (body s = .ok t ∨ ∃ e, body s = .error e ∧ t = s.raiseFault e op) := by
  simp only [perform] at h
  split at h
  · next hf =>
    simp only [Bool.and_eq_true, Option.isNone_iff_eq_none] at hf
    refine ⟨hf.1, hf.2, ?_⟩
    unfold atomically at h
    split at h
    · next u hu => exact .inl (by rw [hu]; simpa using h)
    · next e he => exact .inr ⟨e, he, by simpa using h.symm⟩
  · simp at h

@[simp] theorem atomically_ok (op : Opid) (s t : State) : atomically op s (.ok t) = .next t := rfl

@[simp] theorem atomically_error (op : Opid) (s : State) (e : FaultReason) :
    atomically op s (.error e) = .next (s.raiseFault e op) := rfl

/-- leastWidth is the least w with k < 2^w (R8). -/
theorem lt_two_pow_leastWidth (k : Nat) : k < 2 ^ leastWidth k := by
  unfold leastWidth
  split
  · next h => simp [h]
  · exact Nat.lt_log2_self

/-- No increment below a bound that fits its width wraps (R8, R149). -/
theorem increment_of_lt {w k x : Nat} (hk : k < 2 ^ w) (hx : x < k) : increment w x = x + 1 :=
  Nat.mod_eq_of_lt (by omega)

theorem increment_index {p : Config.Params} {x : Nat} (h : x < p.n) : increment (indexWidth p) x = x + 1 :=
  increment_of_lt (lt_two_pow_leastWidth p.n) h

theorem increment_batch {p : Config.Params} {x : Nat} (h : x < p.m) : increment (batchWidth p) x = x + 1 :=
  increment_of_lt (lt_two_pow_leastWidth p.m) h

/-- A bounded free value is a conversion result (R173). -/
theorem inAdcRange_boundToAdc (p : Config.Params) (v : Sample) : inAdcRange p (boundToAdc p v) = true := by
  have h1 : v.toNat % 2 ^ p.adcBits < 2 ^ p.adcBits := Nat.mod_lt _ (Nat.two_pow_pos _)
  have h2 : v.toNat % 2 ^ p.adcBits ≤ v.toNat := Nat.mod_le _ _
  have h3 := v.isLt
  simp only [inAdcRange, boundToAdc, BitVec.toNat_ofNat, decide_eq_true_eq]
  rwa [Nat.mod_eq_of_lt (by omega)]

end Sys2Proof.Machine
end

