-- ==== Sys2Proof/Laws/Steps.lean ====
section
/-! SUPPORT. Every operation but RESET, ADC_COMPLETE and the three composites is one body under one guard: this file says
which, so that a proof over exec is a proof over bodies; then, once for each MAIN step, all that its body can answer. -/

namespace Sys2Proof.Machine

/-- The body each MAIN step performs. -/
def MainStep.body : MainStep → State → Except FaultReason State
  | .idleTop => idleTopBody
  | .idleTest => idleTestBody
  | .debounceDone => debounceDoneBody
  | .sampTop => sampTopBody
  | .convStart => convStartBody
  | .convCollect => convCollectBody
  | .sampPoll => sampPollBody
  | .xferTop => xferTopBody
  | .txLo => txLoBody
  | .txHi => txHiBody
  | .xferPoll => xferPollBody

/-- exec of a MAIN step is its body under MAIN's dispatch (R112). -/
theorem exec_main (m : MainStep) (s : State) : exec m.toInstr s = performMain m m.body s := by cases m <;> rfl

/-- A MAIN step at its own control point, with what it waits for there. -/
theorem exec_main_of_ready {m : MainStep} {s : State} (hf : s.fault = none) (hc : m.control = (s.st, s.ph))
    (hr : m.ready s = true) : exec m.toInstr s = atomically m.toInstr.opid s (m.body s) := by
  rw [exec_main, performMain_of_ready hf hc hr]

/-- A MAIN step away from its control point, or with what it waits for not there, is stuck (R80, R112). -/
theorem exec_main_stuck {m : MainStep} {s : State} (hf : s.fault = none) (hl : s.legalControl = true)
    (hg : ¬(m.control = (s.st, s.ph) ∧ m.ready s = true)) :
    exec m.toInstr s = .fault (.notEnabled m.toInstr.opid) := by
  obtain ⟨k, hk⟩ := legalControl_iff.1 hl
  rw [exec_main]
  simp only [performMain, hf, mainAt_eq_some_iff.2 hk, Option.isNone_none, if_true]
  rw [if_neg]
  simp only [Bool.and_eq_true, beq_iff_eq]
  rintro ⟨rfl, hr⟩
  exact hg ⟨hk, hr⟩

/-- An operation is a MAIN step, another agent's step, RESET, or not schedulable. -/
theorem schedulable_cases {i : Instr} (h : i.schedulable = true) :
    (∃ m : MainStep, i = m.toInstr) ∨ (∃ o : OtherStep, i = o.toInstr) ∨ i = .reset := by
  cases i <;> first | (simp [Instr.schedulable, Instr.cls] at h; done) | skip
  case reset => exact .inr (.inr rfl)
  case idleTop => exact .inl ⟨.idleTop, rfl⟩
  case idleTest => exact .inl ⟨.idleTest, rfl⟩
  case debounceDone => exact .inl ⟨.debounceDone, rfl⟩
  case sampTop => exact .inl ⟨.sampTop, rfl⟩
  case sampPoll => exact .inl ⟨.sampPoll, rfl⟩
  case xferTop => exact .inl ⟨.xferTop, rfl⟩
  case xferPoll => exact .inl ⟨.xferPoll, rfl⟩
  case convStart => exact .inl ⟨.convStart, rfl⟩
  case convCollect => exact .inl ⟨.convCollect, rfl⟩
  case txLo => exact .inl ⟨.txLo, rfl⟩
  case txHi => exact .inl ⟨.txHi, rfl⟩
  case trigIsr => exact .inr (.inl ⟨.trigIsr, rfl⟩)
  case rxIsr => exact .inr (.inl ⟨.rxIsr, rfl⟩)
  case hostSend b => exact .inr (.inl ⟨.hostSend b, rfl⟩)
  case adcComplete v => exact .inr (.inl ⟨.adcComplete v, rfl⟩)
  case txShift => exact .inr (.inl ⟨.txShift, rfl⟩)

/-- exec of another agent's step is its run. -/
theorem exec_other (o : OtherStep) (s : State) : exec o.toInstr s = o.run s := by cases o <;> rfl

/-- What each step of another agent does, where it is performed. -/
def OtherStep.Effect (s t : State) : OtherStep → Prop
  | .trigIsr => t = s.setCell .trig
  | .rxIsr => ∃ b rest, s.rxq = b :: rest ∧ t = State.takeHostByte { s with rxq := rest } b
  | .hostSend b => t = s.hostSends b
  | .adcComplete v => inAdcRange s.params v = true ∧ s.adcBusy = true ∧ t = s.completeConversion v
  | .txShift => s.txFull = true ∧ t = s.shiftOut

/-- All a step of another agent can do. -/
theorem other_next {o : OtherStep} {s t : State} (h : o.run s = .next t) : s.fault = none ∧ o.Effect s t := by
  cases o with
  | trigIsr =>
    simp only [OtherStep.run, execTrigIsr] at h
    obtain ⟨hf, -, h | ⟨e, he, -⟩⟩ := perform_next h
    · exact ⟨hf, (Except.ok.inj h).symm⟩
    · simp at he
  | rxIsr =>
    simp only [OtherStep.run, execRxIsr] at h
    obtain ⟨hf, hg, h⟩ := perform_next h
    refine ⟨hf, ?_⟩
    cases hr : s.rxq with
    | nil => simp [State.rxPending, hr] at hg
    | cons b rest =>
      refine ⟨b, rest, hr, ?_⟩
      rcases h with h | ⟨e, he, -⟩
      · simp only [rxIsrBody, State.readByte, hr] at h
        exact (Except.ok.inj h).symm
      · simp [rxIsrBody, State.readByte, hr] at he
  | hostSend b =>
    simp only [OtherStep.run, execHostSend] at h
    obtain ⟨hf, -, h | ⟨e, he, -⟩⟩ := perform_next h
    · exact ⟨hf, (Except.ok.inj h).symm⟩
    · simp at he
  | adcComplete v =>
    simp only [OtherStep.run, execAdcComplete] at h
    split at h
    · next hv =>
      obtain ⟨hf, hg, h | ⟨e, he, -⟩⟩ := perform_next h
      · exact ⟨hf, hv, hg, (Except.ok.inj h).symm⟩
      · simp at he
    · simp at h
  | txShift =>
    simp only [OtherStep.run, execTxShift] at h
    obtain ⟨hf, hg, h | ⟨e, he, -⟩⟩ := perform_next h
    · exact ⟨hf, hg, (Except.ok.inj h).symm⟩
    · simp at he

/-- What a step of another agent leaves alone: MAIN's registers, the buffer, the indicator, the parameters and the
schedule (R209, R32). -/
theorem other_frame {o : OtherStep} {s t : State} (h : o.run s = .next t) :
    t.params = s.params ∧ t.st = s.st ∧ t.ph = s.ph ∧ t.entry = s.entry ∧ t.batch = s.batch ∧ t.wr = s.wr ∧
      t.rd = s.rd ∧ t.ind = s.ind ∧ t.buf = s.buf ∧ t.fault = none ∧ t.ret = s.ret ∧ t.trace = s.trace := by
  obtain ⟨hf, h⟩ := other_next h
  cases o with
  | trigIsr => obtain rfl := h; simp [hf]
  | rxIsr => obtain ⟨b, rest, -, rfl⟩ := h; simp [hf]
  | hostSend b => obtain rfl := h; simp [hf]
  | adcComplete v => obtain ⟨-, -, rfl⟩ := h; simp [hf]
  | txShift => obtain ⟨-, rfl⟩ := h; simp [hf]

/-- All CONV_START's body can answer. -/
theorem convStartBody_ok {s t : State} (h : convStartBody s = .ok t) :
    s.wr < s.params.n ∧ s.adcBusy = false ∧ s.adcDone = false ∧
      t = { s with adcBusy := true, adcDone := false, ph := PH.convWait } := by
  unfold convStartBody State.startConversion at h
  split at h
  · simp at h
  · next hw =>
    by_cases hb : (s.adcBusy || s.adcDone) = true
    · simp [hb] at h
    · simp only [Bool.or_eq_true, not_or, Bool.not_eq_true] at hb
      simp only [hb.1, hb.2, Bool.or_false, Bool.false_eq_true, if_false, Except.ok.injEq] at h
      exact ⟨by omega, hb.1, hb.2, h.symm⟩

/-- All CONV_COLLECT's body can answer. -/
theorem convCollectBody_ok {s t : State} (h : convCollectBody s = .ok t) :
    s.adcDone = true ∧ s.wr < s.params.n ∧
      t = { s with
        buf := Memory.write s.buf s.wr s.readAdcRes.1, wr := s.wr + 1, adcDone := false, draws := s.readAdcRes.2.draws
        ph := if s.wr + 1 = s.params.n then PH.sampPoll else PH.convStart } := by
  unfold convCollectBody State.readConversionResult at h
  by_cases hd : s.adcDone = true
  · rw [if_pos hd] at h
    simp only at h
    split at h
    · simp at h
    · next b hb =>
      obtain ⟨hw, rfl⟩ := memWrite_ok_iff.1 hb
      simp only [State.readAdcRes_wr, State.readAdcRes_params] at hw
      refine ⟨hd, hw, ?_⟩
      simp only [State.readAdcRes_wr, State.readAdcRes_params, increment_index hw, Except.ok.injEq] at h
      rw [← h]
      simp
  · simp [hd] at h

/-- All elementToSend can answer. -/
theorem elementToSend_ok_iff {s : State} {v : Sample} :
    elementToSend s = .ok v ↔ s.wr = s.params.n ∧ s.rd < s.params.n ∧ Memory.read s.buf s.rd = some v := by
  unfold elementToSend
  split
  · next h => simp [h]
  · next h => simp [not_not.1 h, memRead_ok_iff]

/-- All TX_LO's body can answer. -/
theorem txLoBody_ok {s t : State} (h : txLoBody s = .ok t) :
    s.wr = s.params.n ∧ s.rd < s.params.n ∧ ∃ v, Memory.read s.buf s.rd = some v ∧
      t = { s with txHold := some (lowByte v), txFull := true, ph := PH.txHi } := by
  unfold txLoBody at h
  split at h
  · simp at h
  · next v hv =>
    obtain ⟨hw, hr, hm⟩ := elementToSend_ok_iff.1 hv
    exact ⟨hw, hr, v, hm, (Except.ok.inj h).symm⟩

/-- All TX_HI's body can answer. -/
theorem txHiBody_ok {s t : State} (h : txHiBody s = .ok t) :
    s.wr = s.params.n ∧ s.rd < s.params.n ∧ ∃ v, Memory.read s.buf s.rd = some v ∧
      t = { s with
        txHold := some (highByte v), txFull := true, rd := s.rd + 1
        ph := if s.rd + 1 = s.params.n then PH.xferPoll else PH.txLo } := by
  unfold txHiBody at h
  split at h
  · simp at h
  · next v hv =>
    obtain ⟨hw, hr, hm⟩ := elementToSend_ok_iff.1 hv
    refine ⟨hw, hr, v, hm, ?_⟩
    simp only [State.sendByte_params, State.sendByte_rd, increment_index hr, Except.ok.injEq] at h
    rw [← h]
    rfl

/-- All SAMP_POLL's body can answer. -/
theorem sampPollBody_ok {s t : State} (h : sampPollBody s = .ok t) :
    s.wr = s.params.n ∧
      t = if s.cmdS = true then { s with cmdS := false, st := ST.transfer, ph := PH.top }
        else { s with cmdS := false, st := ST.idle, ph := PH.top, entry := true } := by
  unfold sampPollBody at h
  split at h
  · simp at h
  · next hw =>
    refine ⟨not_not.1 hw, ?_⟩
    cases hc : s.cmdS <;> simp only [State.testAndClear, State.cell, hc] at h <;> rw [← Except.ok.inj h] <;> rfl

/-- All XFER_TOP's body can answer. -/
theorem xferTopBody_ok {s t : State} (h : xferTopBody s = .ok t) :
    s.wr = s.params.n ∧ s.batch < s.params.m ∧ t = { s with ind := some 0b10#2, rd := 0, ph := PH.txLo } := by
  unfold xferTopBody at h
  split at h
  · simp at h
  · next hw =>
    split at h
    · simp at h
    · next hb => exact ⟨not_not.1 hw, by omega, (Except.ok.inj h).symm⟩

/-- All XFER_POLL's body can answer. -/
theorem xferPollBody_ok {s t : State} (h : xferPollBody s = .ok t) :
    s.batch < s.params.m ∧
      t = if s.cmdO = true ∧ s.batch + 1 ≠ s.params.m then
          { s with batch := s.batch + 1, cmdO := false, st := ST.sampling, ph := PH.top }
        else { s with batch := s.batch + 1, cmdO := false, st := ST.idle, ph := PH.top, entry := true } := by
  unfold xferPollBody at h
  split at h
  · simp at h
  · next hb =>
    have hm : s.batch < s.params.m := by omega
    refine ⟨hm, ?_⟩
    simp only [increment_batch hm] at h
    cases hc : s.cmdO <;> by_cases he : s.batch + 1 = s.params.m <;>
      simp [State.testAndClear, State.cell, State.withCell, hc, he] at h <;> rw [← h] <;> simp [he, State.goto]

end Sys2Proof.Machine
end

