-- ==== Sys2Proof/Laws/Composite.lean ====
section
/-! SUPPORT. What happens between two MAIN steps of a composite: any steps of the other agents, of which this file says
once what they keep; and what sequencing answers (40_state_machine.md R100, 42_sampler_transmitter.md R140, R143). -/

namespace Sys2Proof.Machine

/-- A sequence goes on from the state its first operation leaves, when that is no fault. -/
theorem andThen_of_next {r : Result} {k : State → Result} {t : State} (h : r = .next t) (hf : t.fault = none) :
    andThen r k = k t := by
  simp [andThen, h, hf]

/-- All a sequence can do when it answers a next state: stop at the first operation's model fault, or go on. -/
theorem andThen_next {r : Result} {k : State → Result} {t : State} (h : andThen r k = .next t) :
    ∃ a, r = .next a ∧ (a.fault ≠ none ∧ t = a ∨ a.fault = none ∧ k a = .next t) := by
  unfold andThen at h
  split at h
  · next a =>
    refine ⟨a, rfl, ?_⟩
    cases hf : a.fault <;> simp_all
  · simp at h
  · simp at h

/-- Every property a repeated operation keeps, its repetition keeps. -/
theorem repeatTimes_keeps {P : State → Prop} {f : State → Result} (hP : ∀ s t, P s → f s = .next t → P t) (k : Nat) :
    ∀ s t, P s → repeatTimes k f s = .next t → P t := by
  induction k with
  | zero => intro s t hs h; rw [← Host.Outcome.next.inj h]; exact hs
  | succ k ih =>
    intro s t hs h
    obtain ⟨a, ha, ⟨-, rfl⟩ | ⟨-, hk⟩⟩ := andThen_next h
    · exact hP s _ hs ha
    · exact ih a t (hP s a hs ha) hk

/-- A step of another agent is either none, or one its agent takes, performed. -/
theorem otherStep_cases (c : Config.Choice) (s : State) :
    otherStep c s = s ∨ ∃ o : OtherStep, o.allowed s.params = true ∧ o.run s = .next (otherStep c s) := by
  unfold otherStep
  split
  · exact .inl rfl
  · next o ho =>
    have ha := (Bool.and_eq_true_iff.1 (List.mem_filter.1 (List.mem_of_getElem? ho)).2).1
    cases h : o.run s with
    | next t => exact .inr ⟨o, ha, h⟩
    | fault e => exact .inl rfl
    | refused e => exact .inl rfl

/-- Every property the steps their agents take keep, any sequence of them keeps. -/
theorem otherSteps_keep_of_allowed {P : State → Prop}
    (hP : ∀ (o : OtherStep) (s t : State), P s → o.allowed s.params = true → o.run s = .next t → P t)
    (cs : List Config.Choice) : ∀ s, P s → P (otherSteps cs s) := by
  induction cs with
  | nil => exact fun s hs => hs
  | cons c rest ih =>
    intro s hs
    refine ih _ ?_
    rcases otherStep_cases c s with h | ⟨o, ha, h⟩
    · rw [h]; exact hs
    · exact hP o s _ hs ha h

/-- Every property the five steps keep, and the count of free values does not touch, interference keeps. -/
theorem interfere_keeps {P : State → Prop} (hP : ∀ (o : OtherStep) (s t : State), P s → o.run s = .next t → P t)
    (hd : ∀ (s : State) (d : Nat), P s → P { s with draws := d }) {s : State} (h : P s) : P (interfere s) :=
  otherSteps_keep_of_allowed (fun o s t hs _ h => hP o s t hs h) _ _ (hd s _ h)

/-- What interference leaves alone, where no fault has been taken: MAIN's registers, the buffer, the indicator, the
parameters and the schedule (R209, R32). -/
theorem interfere_frame {s : State} (hf : s.fault = none) :
    (interfere s).params = s.params ∧ (interfere s).st = s.st ∧ (interfere s).ph = s.ph ∧
      (interfere s).entry = s.entry ∧ (interfere s).batch = s.batch ∧ (interfere s).wr = s.wr ∧
      (interfere s).rd = s.rd ∧ (interfere s).ind = s.ind ∧ (interfere s).buf = s.buf ∧ (interfere s).fault = none ∧
      (interfere s).ret = s.ret ∧ (interfere s).trace = s.trace := by
  refine interfere_keeps
    (P := fun t => t.params = s.params ∧ t.st = s.st ∧ t.ph = s.ph ∧ t.entry = s.entry ∧ t.batch = s.batch ∧
      t.wr = s.wr ∧ t.rd = s.rd ∧ t.ind = s.ind ∧ t.buf = s.buf ∧ t.fault = none ∧ t.ret = s.ret ∧ t.trace = s.trace)
    (fun o a b ha h => ?_) (fun _ _ h => h) ⟨rfl, rfl, rfl, rfl, rfl, rfl, rfl, rfl, rfl, hf, rfl, rfl⟩
  obtain ⟨h1, h2, h3, h4, h5, h6, h7, h8, h9, -, h11, h12⟩ := ha
  obtain ⟨e1, e2, e3, e4, e5, e6, e7, e8, e9, e10, e11, e12⟩ := other_frame h
  exact ⟨e1.trans h1, e2.trans h2, e3.trans h3, e4.trans h4, e5.trans h5, e6.trans h6, e7.trans h7, e8.trans h8,
    e9.trans h9, e10, e11.trans h11, e12.trans h12⟩

/-- The converter before its conversion is started, and a conversion in progress or completed, stay so under the other
agents' steps (R173). -/
theorem other_converter {o : OtherStep} {s t : State} (h : o.run s = .next t) :
    (s.adcBusy = false → t.adcBusy = false ∧ t.adcDone = s.adcDone ∧ t.adcRes = s.adcRes) ∧
      (s.adcBusy = true → s.adcDone = false → t.adcBusy = true ∧ t.adcDone = false ∨ t.adcBusy = false ∧
        t.adcDone = true ∧ ∃ v, t.adcRes = some v ∧ inAdcRange s.params v = true) := by
  obtain ⟨-, he⟩ := other_next h
  cases o with
  | trigIsr => obtain rfl := he; exact ⟨fun h => ⟨h, rfl, rfl⟩, fun h1 h2 => .inl ⟨h1, h2⟩⟩
  | rxIsr => obtain ⟨b, rest, -, rfl⟩ := he; simp_all
  | hostSend b => obtain rfl := he; simp_all
  | adcComplete v => obtain ⟨hv, hb, rfl⟩ := he; simp_all [State.completeConversion]
  | txShift => obtain ⟨-, rfl⟩ := he; simp_all

/-- A byte passed to the transmitter stays passed, in order, under the other agents' steps; a free holding register stays
free (R64, R174). -/
theorem other_transmitter {o : OtherStep} {s t : State} (h : o.run s = .next t) (hh : HoldWritten s) :
    HoldWritten t ∧ t.sentBytes = s.sentBytes ∧ (s.txFull = false → t.txFull = false) := by
  obtain ⟨-, he⟩ := other_next h
  cases o with
  | trigIsr => obtain rfl := he; exact ⟨hh, rfl, fun h => h⟩
  | rxIsr => obtain ⟨b, rest, -, rfl⟩ := he; simp_all [HoldWritten, State.sentBytes]
  | hostSend b => obtain rfl := he; simp_all [HoldWritten, State.sentBytes]
  | adcComplete v => obtain ⟨-, -, rfl⟩ := he; exact ⟨hh, rfl, fun h => h⟩
  | txShift =>
    obtain ⟨hb, rfl⟩ := he
    obtain ⟨v, hv⟩ := Option.isSome_iff_exists.1 (hh hb)
    simp [State.sentBytes, State.shiftOut, State.heldByte, hv, hb, HoldWritten]

/-- A converter that never answers leaves its conversion as it is, and a transmitter that never answers its byte
(R240, R245). -/
theorem interfere_never (s : State) :
    (s.params.adcAnswer = .never → (interfere s).adcDone = s.adcDone) ∧
      (s.params.txAnswer = .never → (interfere s).txFull = s.txFull) := by
  refine (otherSteps_keep_of_allowed (P := fun t => t.params = s.params ∧
    (s.params.adcAnswer = .never → t.adcDone = s.adcDone) ∧ (s.params.txAnswer = .never → t.txFull = s.txFull))
    (fun o a b ha hal h => ?_) _ { s with draws := s.draws + 1 } ⟨rfl, fun _ => rfl, fun _ => rfl⟩).2
  obtain ⟨hp, hd, hx⟩ := ha
  refine ⟨(other_frame h).1.trans hp, fun hn => .trans ?_ (hd hn), fun hn => .trans ?_ (hx hn)⟩
  all_goals
    rw [hp] at hal
    obtain ⟨-, he⟩ := other_next h
    cases o with
    | trigIsr => obtain rfl := he; simp
    | rxIsr => obtain ⟨_, _, -, rfl⟩ := he; simp
    | hostSend b => obtain rfl := he; simp
    | adcComplete v => obtain ⟨-, -, rfl⟩ := he; simp_all [OtherStep.allowed, State.completeConversion]
    | txShift => obtain ⟨-, rfl⟩ := he; simp_all [OtherStep.allowed]

/-- The hang of CONV_COLLECT's wait. -/
abbrev conversionHang : Result := .fault (.waitsForever MainStep.convCollect.toInstr.opid)

/-- All the wait for a conversion can do: MAIN waits without end, which ADC_COMPLETES rules out; or ADC_DONE = 1 comes,
which a converter that never answers rules out (R240). -/
theorem awaitConversion_cases {s : State}
    (h : s.adcBusy = true ∧ s.adcDone = false ∨ s.adcBusy = false ∧ s.adcDone = true ∧
      ∃ v, s.adcRes = some v ∧ inAdcRange s.params v = true) :
    awaitConversion s = conversionHang ∧ s.params.adcAnswer ≠ .assured ∧ s.adcDone = false ∨
      (s.params.adcAnswer = .never → s.adcDone = true) ∧ ∃ d v, inAdcRange s.params v = true ∧
        awaitConversion s = .next { s with adcBusy := false, adcDone := true, adcRes := some v, draws := d } := by
  rcases h with ⟨h1, h2⟩ | ⟨h1, h2, v, h3, h4⟩
  · by_cases ha : s.params.adcAnswer = .assured
    · exact .inr ⟨by simp [ha], s.draws + 1, boundToAdc s.params (Config.freeConversion s.draws),
        inAdcRange_boundToAdc _ _, by simp [awaitConversion, h1, h2, ha, State.completeConversion]⟩
    · exact .inl ⟨by simp [awaitConversion, h2, ha], ha, h2⟩
  · exact .inr ⟨fun _ => h2, s.draws, v, h4, by cases s; simp_all [awaitConversion]⟩

/-- All one element of a fill can do: MAIN waits without end, which ADC_COMPLETES rules out; or the result is written
where WR stood, and nothing else of MAIN's but ADC_RES, WR and PH moves, which a converter that never answers rules out
(R140, R240). -/
theorem fillElement_cases {s : State} (hf : s.fault = none) (hst : s.st = ST.sampling) (hph : s.ph = PH.convStart)
    (hw : s.wr < s.params.n) (hb : s.adcBusy = false) (hd : s.adcDone = false) :
    fillElement s = conversionHang ∧ s.params.adcAnswer ≠ .assured ∨ s.params.adcAnswer ≠ .never ∧
    ∃ t v, fillElement s = .next t ∧ inAdcRange s.params v = true ∧ t.buf = Memory.write s.buf s.wr v ∧
      t.wr = s.wr + 1 ∧ t.ph = (if s.wr + 1 = s.params.n then PH.sampPoll else PH.convStart) ∧ t.adcRes = some v ∧
      t.adcBusy = false ∧ t.adcDone = false ∧ t.params = s.params ∧ t.st = s.st ∧ t.entry = s.entry ∧
      t.batch = s.batch ∧ t.rd = s.rd ∧ t.ind = s.ind ∧ t.fault = none ∧ t.ret = s.ret ∧ t.trace = s.trace := by
  obtain ⟨a1, a2, a3, a4, a5, a6, a7, a8, a9, a10, a11, a12⟩ := interfere_frame hf
  obtain ⟨ab, ad⟩ : (interfere s).adcBusy = false ∧ (interfere s).adcDone = false :=
    interfere_keeps (P := fun t => t.adcBusy = false ∧ t.adcDone = false)
      (fun o x y hx h => by
        obtain ⟨h1, h2, -⟩ := (other_converter h).1 hx.1
        exact ⟨h1, h2.trans hx.2⟩)
      (fun _ _ h => h) ⟨hb, hd⟩
  have hstart : execConvStart (interfere s) =
      .next { interfere s with adcBusy := true, adcDone := false, ph := PH.convWait } := by
    rw [show execConvStart (interfere s) = _ from
      exec_main_of_ready (m := .convStart) a10 (by rw [a2, a3, hst, hph]; rfl) rfl]
    have hn : ¬ (interfere s).params.n ≤ (interfere s).wr := by rw [a1, a6]; omega
    simp [MainStep.body, convStartBody, State.startConversion, ab, ad, hn]
  unfold fillElement
  generalize interfere s = a at *
  have hnever := (interfere_never { a with adcBusy := true, adcDone := false, ph := PH.convWait }).1
  have hc : ∀ u : State, u = { a with adcBusy := true, adcDone := false, ph := PH.convWait } →
      (interfere u).adcBusy = true ∧ (interfere u).adcDone = false ∨ (interfere u).adcBusy = false ∧
        (interfere u).adcDone = true ∧ ∃ v, (interfere u).adcRes = some v ∧ inAdcRange s.params v = true := by
    intro u hu
    refine (interfere_keeps (P := fun t => t.params = s.params ∧ (t.adcBusy = true ∧ t.adcDone = false ∨
      t.adcBusy = false ∧ t.adcDone = true ∧ ∃ v, t.adcRes = some v ∧ inAdcRange s.params v = true))
      (fun o x y hx h => ?_) (fun _ _ h => h) (by subst hu; exact ⟨a1, .inl ⟨rfl, rfl⟩⟩)).2
    refine ⟨(other_frame h).1.trans hx.1, ?_⟩
    rcases hx.2 with ⟨h1, h2⟩ | ⟨h1, h2, v, h3, h4⟩
    · have := (other_converter h).2 h1 h2
      rwa [hx.1] at this
    · obtain ⟨e1, e2, e3⟩ := (other_converter h).1 h1
      exact .inr ⟨e1, e2.trans h2, v, e3.trans h3, h4⟩
  have hc := hc _ rfl
  obtain ⟨b1, b2, b3, b4, b5, b6, b7, b8, b9, b10, b11, b12⟩ :=
    interfere_frame (s := { a with adcBusy := true, adcDone := false, ph := PH.convWait }) a10
  simp only at b1 b2 b3 b4 b5 b6 b7 b8 b9 b10 b11 b12 hnever
  rw [andThen_of_next hstart a10]
  simp only
  generalize interfere { a with adcBusy := true, adcDone := false, ph := PH.convWait } = c at *
  have hp : c.params = s.params := b1.trans a1
  rcases awaitConversion_cases (s := c) (by rw [hp]; exact hc) with ⟨hh, ha, -⟩ | ⟨hn, d, v, hrange, hd⟩
  · exact .inl ⟨by rw [hh]; rfl, hp ▸ ha⟩
  refine .inr ⟨fun h => ?_, ?_⟩
  · have h1 := hnever (by rw [a1]; exact h)
    rw [hn (by rw [hp]; exact h)] at h1
    exact absurd h1 (by decide)
  rw [andThen_of_next hd b10]
  have hcollect := exec_main_of_ready (m := .convCollect)
    (s := { c with adcBusy := false, adcDone := true, adcRes := some v, draws := d }) b10
    (by simp only [b2, b3, a2, hst]; rfl) rfl
  rw [hp] at hrange
  have hw' : ¬ c.params.n ≤ c.wr := by rw [b1, a1, b6, a6]; omega
  have hi : increment (indexWidth c.params) c.wr = c.wr + 1 := increment_index (by omega)
  rw [show execConvCollect _ = _ from hcollect]
  simp only [MainStep.body, convCollectBody, State.readConversionResult, State.readAdcRes, memWrite, if_true,
    if_neg hw', hi, atomically_ok]
  refine ⟨_, v, rfl, hrange, ?_⟩
  simp [b1, a1, b2, a2, b4, a4, b5, a5, b6, a6, b7, a7, b8, a8, b9, a9, b10, b11, a11, b12, a12]

/-- The hang of TX_LO's or TX_HI's wait. -/
abbrev transmitHang (m : MainStep) : Result := .fault (.waitsForever m.toInstr.opid)

/-- What interference keeps of the bytes passed to the transmitter (R64, R165). -/
theorem interfere_sentBytes {s : State} (hh : HoldWritten s) :
    HoldWritten (interfere s) ∧ (interfere s).sentBytes = s.sentBytes ∧
      (s.txFull = false → (interfere s).txFull = false) :=
  interfere_keeps (P := fun t => HoldWritten t ∧ t.sentBytes = s.sentBytes ∧ (s.txFull = false → t.txFull = false))
    (fun o x y hx h => by
      obtain ⟨h1, h2, h3⟩ := other_transmitter h hx.1
      exact ⟨h1, h2.trans hx.2.1, fun hf => h3 (hx.2.2 hf)⟩)
    (fun _ _ h => h) ⟨hh, rfl, fun h => h⟩

/-- All the wait of m for the transmitter can do at m's control point: MAIN waits without end, which TX_FAIR rules out; or
TX_FULL = 0 comes, and no byte passed to the transmitter is lost (R64, R165, R245). -/
theorem awaitTransmitter_cases {m : MainStep} {s : State} (hh : HoldWritten s) (hc : m.control = (s.st, s.ph)) :
    awaitTransmitter m s = transmitHang m ∧ s.params.txAnswer ≠ .assured ∧ s.txFull = true ∨
      (s.params.txAnswer = .never → s.txFull = false) ∧ ∃ out,
        awaitTransmitter m s = .next { s with txFull := false, hostOut := out } ∧ out = s.sentBytes := by
  cases hf : s.txFull with
  | false => exact .inr ⟨fun _ => rfl, s.hostOut, by cases s; simp_all [awaitTransmitter], by simp [State.sentBytes, hf]⟩
  | true =>
    by_cases ha : s.params.txAnswer = .assured
    · obtain ⟨v, hv⟩ := Option.isSome_iff_exists.1 (hh hf)
      exact .inr ⟨by simp [ha], s.hostOut ++ [v],
        by simp [awaitTransmitter, hf, hc, ha, State.shiftOut, State.heldByte, hv], by simp [State.sentBytes, hf, hv]⟩
    · exact .inl ⟨by simp [awaitTransmitter, hf, hc, ha], ha, rfl⟩

/-- All TX_LO in a send can do once the other agents have stepped (R143, R144, R245). -/
theorem sendLow_cases {s : State} {v : Sample} (hf : s.fault = none) (hst : s.st = ST.transfer) (hph : s.ph = PH.txLo)
    (hw : s.wr = s.params.n) (hr : s.rd < s.params.n) (hm : Memory.read s.buf s.rd = some v) (hh : HoldWritten s) :
    sendLow s = transmitHang .txLo ∧ s.params.txAnswer ≠ .assured ∧ s.txFull = true ∨
      (s.params.txAnswer = .never → s.txFull = false) ∧
        sendLow s = .next { s with
          hostOut := s.sentBytes, txHold := some (lowByte v), txFull := true, ph := PH.txHi } := by
  have hc : MainStep.txLo.control = (s.st, s.ph) := by rw [hst, hph]; rfl
  rcases awaitTransmitter_cases (m := .txLo) hh hc with ⟨h, ha, hx⟩ | ⟨hn, _, h, rfl⟩
  · exact .inl ⟨by unfold sendLow; rw [h]; rfl, ha, hx⟩
  · refine .inr ⟨hn, ?_⟩
    unfold sendLow
    rw [andThen_of_next h hf, show execTxLo _ = _ from
      exec_main_of_ready (m := .txLo) (s := { s with txFull := false, hostOut := s.sentBytes }) hf hc rfl]
    have : elementToSend { s with txFull := false, hostOut := s.sentBytes } = .ok v :=
      elementToSend_ok_iff.2 ⟨hw, hr, hm⟩
    simp only [MainStep.body, txLoBody, this]
    rfl

/-- All TX_HI in a send can do once the other agents have stepped (R143, R145, R245). -/
theorem sendHigh_cases {s : State} {v : Sample} (hf : s.fault = none) (hst : s.st = ST.transfer) (hph : s.ph = PH.txHi)
    (hw : s.wr = s.params.n) (hr : s.rd < s.params.n) (hm : Memory.read s.buf s.rd = some v) (hh : HoldWritten s) :
    sendHigh s = transmitHang .txHi ∧ s.params.txAnswer ≠ .assured ∧ s.txFull = true ∨
      (s.params.txAnswer = .never → s.txFull = false) ∧
        sendHigh s = .next { s with
          hostOut := s.sentBytes, txHold := some (highByte v), txFull := true, rd := s.rd + 1
          ph := if s.rd + 1 = s.params.n then PH.xferPoll else PH.txLo } := by
  have hc : MainStep.txHi.control = (s.st, s.ph) := by rw [hst, hph]; rfl
  rcases awaitTransmitter_cases (m := .txHi) hh hc with ⟨h, ha, hx⟩ | ⟨hn, _, h, rfl⟩
  · exact .inl ⟨by unfold sendHigh; rw [h]; rfl, ha, hx⟩
  · refine .inr ⟨hn, ?_⟩
    unfold sendHigh
    rw [andThen_of_next h hf, show execTxHi _ = _ from
      exec_main_of_ready (m := .txHi) (s := { s with txFull := false, hostOut := s.sentBytes }) hf hc rfl]
    have : elementToSend { s with txFull := false, hostOut := s.sentBytes } = .ok v :=
      elementToSend_ok_iff.2 ⟨hw, hr, hm⟩
    have hi : increment (indexWidth s.params) s.rd = s.rd + 1 := increment_index hr
    simp only [MainStep.body, txHiBody, this, State.sendByte_params, State.sendByte_rd, hi, atomically_ok]
    rfl

/-- All one element of a send can do: MAIN waits without end, which TX_FAIR rules out; or its two bytes are passed to the
transmitter, low byte first, and nothing else of MAIN's but RD and PH moves, which a transmitter that never answers rules
out: MAIN then waits at TX_LO if a byte was held, at TX_HI if not (R143, R245). -/
theorem sendElement_cases {s : State} {v : Sample} (hf : s.fault = none) (hst : s.st = ST.transfer)
    (hph : s.ph = PH.txLo) (hw : s.wr = s.params.n) (hr : s.rd < s.params.n) (hm : Memory.read s.buf s.rd = some v)
    (hh : HoldWritten s) :
    (∃ m, (m = .txLo ∨ m = .txHi) ∧ (s.params.txAnswer = .never → m = if s.txFull = true then .txLo else .txHi) ∧
      sendElement s = transmitHang m ∧ s.params.txAnswer ≠ .assured) ∨ s.params.txAnswer ≠ .never ∧
    ∃ t, sendElement s = .next t ∧ t.sentBytes = s.sentBytes ++ [lowByte v, highByte v] ∧ HoldWritten t ∧
      t.rd = s.rd + 1 ∧ t.ph = (if s.rd + 1 = s.params.n then PH.xferPoll else PH.txLo) ∧ t.params = s.params ∧
      t.st = s.st ∧ t.entry = s.entry ∧ t.batch = s.batch ∧ t.wr = s.wr ∧ t.ind = s.ind ∧ t.buf = s.buf ∧
      t.fault = none ∧ t.ret = s.ret ∧ t.trace = s.trace := by
  obtain ⟨a1, a2, a3, a4, a5, a6, a7, a8, a9, a10, a11, a12⟩ := interfere_frame hf
  obtain ⟨ah, as, -⟩ := interfere_sentBytes hh
  have an := (interfere_never s).2
  unfold sendElement
  generalize interfere s = a at *
  have hlo := sendLow_cases (s := a) (v := v) a10 (a2.trans hst) (a3.trans hph) (by rw [a6, a1, hw])
    (by rw [a7, a1]; exact hr) (by rw [a9, a7]; exact hm) ah
  rcases hlo with ⟨h, hp, hx⟩ | ⟨hn, h⟩
  · exact .inl ⟨.txLo, .inl rfl, fun he => by rw [if_pos (by rw [← an he]; exact hx)], by rw [h]; rfl, a1 ▸ hp⟩
  rw [a1] at hn
  rw [andThen_of_next h a10]
  have hb : HoldWritten
      { a with hostOut := a.sentBytes, txHold := some (lowByte v), txFull := true, ph := PH.txHi } := fun _ => rfl
  obtain ⟨b1, b2, b3, b4, b5, b6, b7, b8, b9, b10, b11, b12⟩ := interfere_frame
    (s := { a with hostOut := a.sentBytes, txHold := some (lowByte v), txFull := true, ph := PH.txHi }) a10
  obtain ⟨bh, bs, -⟩ := interfere_sentBytes hb
  have bn := (interfere_never
    { a with hostOut := a.sentBytes, txHold := some (lowByte v), txFull := true, ph := PH.txHi }).2
  have hs : State.sentBytes
      { a with hostOut := a.sentBytes, txHold := some (lowByte v), txFull := true, ph := PH.txHi } =
      s.sentBytes ++ [lowByte v] := by
    rw [← as]; rfl
  simp only at b1 b2 b3 b4 b5 b6 b7 b8 b9 b10 b11 b12 bn
  generalize interfere
    { a with hostOut := a.sentBytes, txHold := some (lowByte v), txFull := true, ph := PH.txHi } = b at *
  have hhi := sendHigh_cases (s := b) (v := v) b10 (b2.trans (a2.trans hst)) b3 (by rw [b6, b1, a6, a1, hw])
    (by rw [b7, b1, a7, a1]; exact hr) (by rw [b9, b7, a9, a7]; exact hm) bh
  rw [a1] at bn
  have hp : b.params = s.params := b1.trans a1
  rcases hhi with ⟨h, ha, -⟩ | ⟨hn', h⟩
  · refine .inl ⟨.txHi, .inr rfl, fun he => ?_, h, hp ▸ ha⟩
    rw [if_neg]
    rw [← an he, hn he]
    decide
  refine .inr ⟨fun he => absurd ((bn he).symm.trans (hn' (by rw [hp]; exact he))) (by decide), _, h, ?_, fun _ => rfl, ?_⟩
  · rw [bs, hs]
    simp [State.sentBytes]
  · simp_all

end Sys2Proof.Machine
end

