-- ==== Sys2Proof/Laws/Decode.lean ====
section
/-! SUPPORT. The fields of a trace word, and what the opcode map can answer (30_encoding.md R76, R77). -/

namespace Sys2Proof

@[simp] theorem wordOpid_packWord (op : Opid) (x : Sample) : wordOpid (packWord op x) = op := by
  apply BitVec.eq_of_getLsbD_eq
  intro i hi
  simp only [wordOpid, packWord, BitVec.getLsbD_extractLsb', BitVec.getLsbD_append]
  simp [hi]

@[simp] theorem wordOperand_packWord (op : Opid) (x : Sample) : wordOperand (packWord op x) = x := by
  apply BitVec.eq_of_getLsbD_eq
  intro i hi
  simp only [wordOperand, packWord, BitVec.getLsbD_extractLsb', BitVec.getLsbD_append]
  simp [hi]

/-- A word is its two fields. -/
theorem packWord_fields (w : TraceWord) : packWord (wordOpid w) (wordOperand w) = w := by
  apply BitVec.eq_of_getLsbD_eq
  intro i hi
  simp only [wordOpid, wordOperand, packWord, BitVec.getLsbD_extractLsb', BitVec.getLsbD_append]
  by_cases h : i < 16
  · simp [h]
  · have h8 : i - 16 < 8 := by omega
    have h3 : 16 + (i - 16) = i := by omega
    simp [h, h8, h3]

/-- The opcode map reads back the operation it was asked for, with the operand its word carries (R76). -/
theorem opOf_opid (i : Instr) (h : i.cls ≠ .hostByte) : opOf i.opid i.operandField = some i.asCoded := by
  cases i <;> first | rfl | exact absurd rfl h | skip
  case hostSend b =>
    have : (b.setWidth 16).extractLsb' 0 8 = b := by
      apply BitVec.eq_of_getLsbD_eq
      intro k hk
      simp only [BitVec.getLsbD_extractLsb', BitVec.getLsbD_setWidth]
      simp [hk, show k < 16 by omega]
    simp [Instr.opid, Instr.operandField, Instr.asCoded, opOf, this]

/-- An operation the opcode map answers has the opid it was asked for, and is none of the host bytes (R76). -/
theorem opOf_some {op : Opid} {x : Sample} {i : Instr} (h : opOf op x = some i) :
    i.opid = op ∧ i.cls ≠ .hostByte := by
  unfold opOf at h
  split at h <;>
    first
      | (next hop =>
          obtain rfl := Option.some.inj h
          exact ⟨BitVec.eq_of_toNat_eq (by rw [hop]; rfl), by simp [Instr.cls]⟩)
      | simp at h

/-- The high byte of a zero-extended byte is 0. -/
theorem highByte_setWidth (b : Byte) : (b.setWidth 16 : Sample).extractLsb' 8 8 = 0#8 := by
  apply BitVec.eq_of_getLsbD_eq
  intro k hk
  simp only [BitVec.getLsbD_extractLsb', BitVec.getLsbD_setWidth]
  simp

/-- A sample with a zero high byte is its low byte, zero-extended. -/
theorem setWidth_lowByte_of_highByte {x : Sample} (h : x.extractLsb' 8 8 = 0#8) :
    ((x.extractLsb' 0 8).setWidth 16 : Sample) = x := by
  apply BitVec.eq_of_getLsbD_eq
  intro k hk
  simp only [BitVec.getLsbD_setWidth, BitVec.getLsbD_extractLsb', Nat.zero_add]
  by_cases h8 : k < 8
  · simp [hk, h8]
  · have hb := congrArg (fun v => v.getLsbD (k - 8)) h
    simp only [BitVec.getLsbD_extractLsb'] at hb
    have h3 : 8 + (k - 8) = k := by omega
    have h4 : k - 8 < 8 := by omega
    rw [h3] at hb
    simp [h4] at hb
    simp [h8, hb]

end Sys2Proof
end

