-- ==== Sys2Proof/Laws/PerInstr.lean ====
section
/-! SUPPORT. The family Encoding: every well-formed operation, written and decoded again, is that operation with the operand
its code carries (30_encoding.md R73, R76, R77; log 7 for the two primitives whose operand no word carries). -/

namespace Sys2Proof.Laws.Encoding

/-- Decoding what the encoder writes gives the operation back, for every converter width. -/
def Statement (i : Instr) : Prop :=
  ∀ bits : Nat, i.wellFormed bits = true → decode bits (encode i) = .ok i.asCoded

/-- A trace operation whose operand field its check accepts. -/
theorem of_checkOperand {i : Instr} {bits : Nat} (he : encode i = .trace (encodeWord i)) (hc : i.cls ≠ .hostByte)
    (hk : checkOperand bits i.asCoded i.operandField = .ok i.asCoded) : decode bits (encode i) = .ok i.asCoded := by
  simp only [he, decode, decodeWord, encodeWord, wordOpid_packWord, wordOperand_packWord, opOf_opid i hc, hk]

theorem reset : Statement (.reset) := fun _ _ => of_checkOperand rfl (by simp [Instr.cls]) rfl
theorem idleTop : Statement (.idleTop) := fun _ _ => of_checkOperand rfl (by simp [Instr.cls]) rfl
theorem idleTest : Statement (.idleTest) := fun _ _ => of_checkOperand rfl (by simp [Instr.cls]) rfl
theorem debounceDone : Statement (.debounceDone) := fun _ _ => of_checkOperand rfl (by simp [Instr.cls]) rfl
theorem sampTop : Statement (.sampTop) := fun _ _ => of_checkOperand rfl (by simp [Instr.cls]) rfl
theorem sampPoll : Statement (.sampPoll) := fun _ _ => of_checkOperand rfl (by simp [Instr.cls]) rfl
theorem xferTop : Statement (.xferTop) := fun _ _ => of_checkOperand rfl (by simp [Instr.cls]) rfl
theorem xferPoll : Statement (.xferPoll) := fun _ _ => of_checkOperand rfl (by simp [Instr.cls]) rfl
theorem convStart : Statement (.convStart) := fun _ _ => of_checkOperand rfl (by simp [Instr.cls]) rfl
theorem convCollect : Statement (.convCollect) := fun _ _ => of_checkOperand rfl (by simp [Instr.cls]) rfl
theorem txLo : Statement (.txLo) := fun _ _ => of_checkOperand rfl (by simp [Instr.cls]) rfl
theorem txHi : Statement (.txHi) := fun _ _ => of_checkOperand rfl (by simp [Instr.cls]) rfl
theorem trigIsr : Statement (.trigIsr) := fun _ _ => of_checkOperand rfl (by simp [Instr.cls]) rfl
theorem rxIsr : Statement (.rxIsr) := fun _ _ => of_checkOperand rfl (by simp [Instr.cls]) rfl
theorem hostSend (b : Byte) : Statement (.hostSend b) := fun _ _ =>
  of_checkOperand rfl (by simp [Instr.cls]) (by simp [checkOperand, Instr.asCoded, Instr.operandField, highByte_setWidth])
theorem adcComplete (v : Sample) : Statement (.adcComplete v) := fun bits h =>
  of_checkOperand rfl (by simp [Instr.cls]) (by
    have : v.toNat < 2 ^ bits := by simpa [Instr.wellFormed] using h
    simp [checkOperand, Instr.asCoded, Instr.operandField, this])
theorem txShift : Statement (.txShift) := fun _ _ => of_checkOperand rfl (by simp [Instr.cls]) rfl
theorem tick : Statement (.tick) := fun _ _ => of_checkOperand rfl (by simp [Instr.cls]) rfl
theorem fill : Statement (.fill) := fun _ _ => of_checkOperand rfl (by simp [Instr.cls]) rfl
theorem send : Statement (.send) := fun _ _ => of_checkOperand rfl (by simp [Instr.cls]) rfl
theorem signalTrigger : Statement (.signalTrigger) := fun _ _ => of_checkOperand rfl (by simp [Instr.cls]) rfl
theorem signalCmdS : Statement (.signalCmdS) := fun _ _ => of_checkOperand rfl (by simp [Instr.cls]) rfl
theorem signalCmdO : Statement (.signalCmdO) := fun _ _ => of_checkOperand rfl (by simp [Instr.cls]) rfl
theorem tacTrigger : Statement (.tacTrigger) := fun _ _ => of_checkOperand rfl (by simp [Instr.cls]) rfl
theorem tacCmdS : Statement (.tacCmdS) := fun _ _ => of_checkOperand rfl (by simp [Instr.cls]) rfl
theorem tacCmdO : Statement (.tacCmdO) := fun _ _ => of_checkOperand rfl (by simp [Instr.cls]) rfl
theorem clearTrigger : Statement (.clearTrigger) := fun _ _ => of_checkOperand rfl (by simp [Instr.cls]) rfl
theorem startConversion : Statement (.startConversion) := fun _ _ => of_checkOperand rfl (by simp [Instr.cls]) rfl
theorem isConversionDone : Statement (.isConversionDone) := fun _ _ => of_checkOperand rfl (by simp [Instr.cls]) rfl
theorem readConversionResult : Statement (.readConversionResult) := fun _ _ => of_checkOperand rfl (by simp [Instr.cls]) rfl
theorem sendByte (b : Byte) : Statement (.sendByte b) := fun _ _ => of_checkOperand rfl (by simp [Instr.cls]) rfl
theorem receivedByteAvailable : Statement (.receivedByteAvailable) := fun _ _ => of_checkOperand rfl (by simp [Instr.cls]) rfl
theorem readByte : Statement (.readByte) := fun _ _ => of_checkOperand rfl (by simp [Instr.cls]) rfl
theorem setIndicator (p : Indicator) : Statement (.setIndicator p) := fun _ _ => of_checkOperand rfl (by simp [Instr.cls]) rfl
theorem flushRx : Statement (.flushRx) := fun _ _ => of_checkOperand rfl (by simp [Instr.cls]) rfl
theorem onEdgeInterrupt : Statement (.onEdgeInterrupt) := fun _ _ => of_checkOperand rfl (by simp [Instr.cls]) rfl
theorem onByteReceivedInterrupt : Statement (.onByteReceivedInterrupt) := fun _ _ => of_checkOperand rfl (by simp [Instr.cls]) rfl
theorem hbStart : Statement (.hbStart) := fun _ _ => rfl
theorem hbCont : Statement (.hbCont) := fun _ _ => rfl
theorem hbOther (b : Byte) : Statement (.hbOther b) := fun bits h => by
  simp only [Instr.wellFormed, Bool.and_eq_true, bne_iff_ne, ne_eq] at h
  simp [encode, decode, decodeHostByte, Instr.asCoded, h.1, h.2]

end Sys2Proof.Laws.Encoding
end

