-- ==== Sys2Proof/Tests/Slice0.lean ====
section
/-! SUPPORT. Small tests: ill-formed terms, one decoded word per constructor, one or two steps per operation against the
vectors of spec/95_test_vectors.md (each named in its comment), and a witness for the hypotheses of each statement. -/

namespace Sys2Proof.Tests

open Sys2Proof.Machine

/-! ## Well-formedness -/

/-- R79, V-EN-13 and V-EN-14: the first value outside a 10-bit converter is refused, the last inside is not. -/
theorem test_ill_formed_adc_value :
    (Instr.adcComplete 0x03FF#16).wellFormed 10 = true ∧
      (Instr.adcComplete 0x0400#16).wellFormed 10 = false := by decide

/-- R73: 's' and 'o' are no other byte; 'S' is. -/
theorem test_ill_formed_host_byte :
    (Instr.hbOther 0x73#8).wellFormed 16 = false ∧ (Instr.hbOther 0x6F#8).wellFormed 16 = false ∧
      (Instr.hbOther 0x53#8).wellFormed 16 = true := by decide

/-! ## Decoding: one word for each constructor, from the table of R76 -/

theorem test_decode_main :
    decodeTrace 16 0b00000000_00000000_00000000#24 = .ok .reset ∧
    decodeTrace 16 0b00000001_00000000_00000000#24 = .ok .idleTop ∧
    decodeTrace 16 0b00000010_00000000_00000000#24 = .ok .idleTest ∧
    decodeTrace 16 0b00000011_00000000_00000000#24 = .ok .debounceDone ∧
    decodeTrace 16 0b00000100_00000000_00000000#24 = .ok .sampTop ∧
    decodeTrace 16 0b00000101_00000000_00000000#24 = .ok .sampPoll ∧
    decodeTrace 16 0b00000110_00000000_00000000#24 = .ok .xferTop ∧
    decodeTrace 16 0b00000111_00000000_00000000#24 = .ok .xferPoll ∧
    decodeTrace 16 0b00001000_00000000_00000000#24 = .ok .convStart ∧
    decodeTrace 16 0b00001001_00000000_00000000#24 = .ok .convCollect ∧
    decodeTrace 16 0b00001010_00000000_00000000#24 = .ok .txLo ∧
    decodeTrace 16 0b00001011_00000000_00000000#24 = .ok .txHi := by decide

/-- V-EN-3, V-EN-5, V-EN-6. -/
theorem test_decode_agents :
    decodeTrace 16 0b00010000_00000000_00000000#24 = .ok .trigIsr ∧
    decodeTrace 16 0b00010001_00000000_00000000#24 = .ok .rxIsr ∧
    decodeTrace 16 0b00100000_00000000_01110011#24 = .ok (.hostSend 0x73#8) ∧
    decodeTrace 16 0b00100001_10101011_11001101#24 = .ok (.adcComplete 0xABCD#16) ∧
    decodeTrace 16 0b00100010_00000000_00000000#24 = .ok .txShift := by decide

theorem test_decode_cell_prims :
    decodeWord 16 0b00110000_00000000_00000000#24 = .ok .tick ∧
    decodeWord 16 0b00110001_00000000_00000000#24 = .ok .fill ∧
    decodeWord 16 0b00110010_00000000_00000000#24 = .ok .send ∧
    decodeWord 16 0b01000000_00000000_00000000#24 = .ok .signalTrigger ∧
    decodeWord 16 0b01000001_00000000_00000000#24 = .ok .signalCmdS ∧
    decodeWord 16 0b01000010_00000000_00000000#24 = .ok .signalCmdO ∧
    decodeWord 16 0b01000011_00000000_00000000#24 = .ok .tacTrigger ∧
    decodeWord 16 0b01000100_00000000_00000000#24 = .ok .tacCmdS ∧
    decodeWord 16 0b01000101_00000000_00000000#24 = .ok .tacCmdO ∧
    decodeWord 16 0b01000110_00000000_00000000#24 = .ok .clearTrigger := by decide

theorem test_decode_peripheral_prims :
    decodeWord 16 0b01010000_00000000_00000000#24 = .ok .startConversion ∧
    decodeWord 16 0b01010001_00000000_00000000#24 = .ok .isConversionDone ∧
    decodeWord 16 0b01010010_00000000_00000000#24 = .ok .readConversionResult ∧
    decodeWord 16 0b01010011_00000000_00000000#24 = .ok (.sendByte 0#8) ∧
    decodeWord 16 0b01010100_00000000_00000000#24 = .ok .receivedByteAvailable ∧
    decodeWord 16 0b01010101_00000000_00000000#24 = .ok .readByte ∧
    decodeWord 16 0b01010110_00000000_00000000#24 = .ok (.setIndicator .idle) ∧
    decodeWord 16 0b01010111_00000000_00000000#24 = .ok .flushRx ∧
    decodeWord 16 0b01011000_00000000_00000000#24 = .ok .onEdgeInterrupt ∧
    decodeWord 16 0b01011001_00000000_00000000#24 = .ok .onByteReceivedInterrupt := by decide

/-- R73 and E12: 's', 'o', 'S' and 's' with its top bit set. -/
theorem test_decode_host_bytes :
    decode 16 (.link 0b0111_0011#8) = .ok .hbStart ∧ decode 16 (.link 0b0110_1111#8) = .ok .hbCont ∧
      decode 16 (.link 0b0101_0011#8) = .ok (.hbOther 0x53#8) ∧
        decode 16 (.link 0xF3#8) = .ok (.hbOther 0xF3#8) := by decide

/-- V-EN-7 to V-EN-12, V-ST-5. -/
theorem test_decode_refuses :
    decodeTrace 16 0x0C0000#24 = .error .noSuchOperation ∧
    decodeTrace 16 0xFF0000#24 = .error .noSuchOperation ∧
    decodeTrace 16 0x300000#24 = .error .primNotSchedulable ∧
    decodeTrace 16 0x430000#24 = .error .primNotSchedulable ∧
    decodeTrace 16 0x010001#24 = .error .nonzeroOperand ∧
    decodeTrace 16 0x200173#24 = .error .hostSendOperand ∧
    decodeTrace 12 0x211000#24 = .error .adcRange := by decide

/-- V-EN-15 to V-EN-17 and R81. -/
theorem test_assembler :
    assemble ["HOST_CMD 's'"] = .ok [0x200073#24, 0x110000#24] ∧
    assemble ["SAMPLE 0x1234"] = .ok [0x080000#24, 0x211234#24, 0x090000#24] ∧
    assemble ["EMIT   ; 02 01"] = .ok [0x0A0000#24, 0x220000#24, 0x0B0000#24, 0x220000#24] ∧
    assemble ["; only a comment", "IDLE_TICK"] = .ok [0x010000#24, 0x020000#24] := by decide

/-- R81, R78: a byte operand is one byte, and a prim has no line. -/
theorem test_assembler_refuses :
    assemble ["HOST_SEND 0x100"] = .error .badOperand ∧ assemble ["TAC_TRIGGER"] = .error .unknownMnemonic := by decide

theorem test_host_view :
    decodeTableWord 24 0x010000 = some .idleTop ∧
    decodeTableWord 24 0x300000 = some .tick ∧
    decodeTableWord 24 0x0C0000 = none ∧
    decodeTableWord 8 0x6F = some .hbCont := by decide

/-! ## The named start states of spec/95_test_vectors.md section 0 -/

/-- N = 2, M = 10, ADC_BITS = 16, RX_DEPTH = 4. -/
def small : Config.Params :=
  { n := 2, m := 10, tDebounce := 300, adcBits := 16, rxDepth := 4, trigEdge := .rising
    adcAnswer := .assured, txAnswer := .assured }

/-- S_RESET. -/
def sReset : State := State.resetWith small

/-- S_IDLE. -/
def sIdle : State := { sReset with entry := false, ind := some 0b00#2 }

/-- S_IDLE at another control point. -/
def sAt (st : BitVec 2) (ph : BitVec 4) : State := { sIdle with st := st, ph := ph }

/-- S_IDLE with a buffer filled with the samples 0x0102 and 0xABCD, at a control point. -/
def sFull (st : BitVec 2) (ph : BitVec 4) : State :=
  { sAt st ph with wr := 2, buf := [(0, 0x0102#16), (1, 0xABCD#16)] }

/-- S_IDLE after a model fault. -/
def sFaulted : State := { sIdle with fault := some ⟨.index, 0x08#8⟩ }

/-- The state an outcome goes on with. -/
def after (r : Result) : Option State :=
  match r with
  | .next t => some t
  | .fault _ => none
  | .refused _ => none

/-- The opid an outcome is stuck at. -/
def stuckOn (r : Result) : Option Opid :=
  match r with
  | .next _ => none
  | .fault (.notEnabled op) => some op
  | .fault (.waitsForever _) => none
  | .refused _ => none

/-- The reason an outcome is refused for. -/
def refusal (r : Result) : Option Refusal :=
  match r with
  | .next _ => none
  | .fault _ => none
  | .refused e => some e

/-! ## One step of each operation -/

/-- V-RS-1, V-EX-2. -/
theorem test_reset :
    after (exec .reset { sFull ST.transfer PH.txHi with
        batch := 3, cmdO := true, rd := 1, txFull := true, fault := some ⟨.batch, 6#8⟩ }) =
      some sReset := by decide

/-- E2. -/
theorem test_idle_top_entry :
    after (exec .idleTop { sIdle with
        entry := true, batch := 7, trig := true, rxq := [0x73#8], cmdS := true, ind := some 0b10#2 }) =
      some { sIdle with ph := PH.idleTest, cmdS := true } := by decide

/-- V-SM-2. -/
theorem test_idle_top_plain :
    after (exec .idleTop { sIdle with trig := true, rxq := [0x73#8] }) =
      some { sIdle with ph := PH.idleTest, trig := true, rxq := [0x73#8] } := by decide

/-- R102 example. -/
theorem test_idle_test_triggered :
    after (exec .idleTest { sAt ST.idle PH.idleTest with trig := true }) = some (sAt ST.idle PH.debounce) := by decide

/-- E6. -/
theorem test_idle_test_quiet :
    after (exec .idleTest (sAt ST.idle PH.idleTest)) = some sIdle := by decide

/-- R104 example, V-SM-6. -/
theorem test_debounce_done :
    after (exec .debounceDone { sAt ST.idle PH.debounce with trig := true }) =
      some (sAt ST.sampling PH.top) := by decide

/-- V-SM-7. -/
theorem test_samp_top :
    after (exec .sampTop (sFull ST.sampling PH.top)) =
      some { sFull ST.sampling PH.convStart with wr := 0, ind := some 0b01#2 } := by decide

/-- V-SM-8, E9. -/
theorem test_samp_poll_start :
    after (exec .sampPoll { sFull ST.sampling PH.sampPoll with cmdS := true, batch := 4, cmdO := true }) =
      some { sFull ST.transfer PH.top with batch := 4, cmdO := true } := by decide

/-- V-SM-9, E8. -/
theorem test_samp_poll_timeout :
    after (exec .sampPoll { sFull ST.sampling PH.sampPoll with batch := 4, cmdO := true }) =
      some { sFull ST.idle PH.top with batch := 4, cmdO := true, entry := true } := by decide

/-- V-SM-10. -/
theorem test_xfer_top :
    after (exec .xferTop { sFull ST.transfer PH.top with rd := 2 }) =
      some { sFull ST.transfer PH.txLo with ind := some 0b10#2 } := by decide

/-- V-SM-12, E10. -/
theorem test_xfer_poll_bound :
    after (exec .xferPoll { sFull ST.transfer PH.xferPoll with rd := 2, batch := 9, cmdO := true }) =
      some { sFull ST.idle PH.top with rd := 2, batch := 10, entry := true } := by decide

/-- V-SM-14, E11. -/
theorem test_xfer_poll_continue :
    after (exec .xferPoll { sFull ST.transfer PH.xferPoll with rd := 2, batch := 3, cmdO := true }) =
      some { sFull ST.sampling PH.top with rd := 2, batch := 4 } := by decide

/-- V-ST-1. -/
theorem test_conv_start :
    after (exec .convStart (sAt ST.sampling PH.convStart)) =
      some { sAt ST.sampling PH.convWait with adcBusy := true } := by decide

/-- R142 example. -/
theorem test_conv_collect :
    after (exec .convCollect { sAt ST.sampling PH.convWait with adcDone := true, adcRes := some 0x0102#16 }) =
      some { sAt ST.sampling PH.convStart with adcRes := some 0x0102#16, buf := [(0, 0x0102#16)], wr := 1 } := by decide

/-- V-ST-4: the second element is overwritten and the fill ends. -/
theorem test_conv_collect_last :
    after (exec .convCollect { sFull ST.sampling PH.convWait with wr := 1, adcDone := true, adcRes := some 0#16 }) =
      some { sAt ST.sampling PH.sampPoll with
        adcRes := some 0#16, buf := [(0, 0x0102#16), (1, 0#16)], wr := 2 } := by decide

/-- R144 example. -/
theorem test_tx_lo :
    after (exec .txLo (sFull ST.transfer PH.txLo)) =
      some { sFull ST.transfer PH.txHi with txHold := some 0x02#8, txFull := true } := by decide

/-- R145 example. -/
theorem test_tx_hi :
    after (exec .txHi (sFull ST.transfer PH.txHi)) =
      some { sFull ST.transfer PH.txLo with txHold := some 0x01#8, txFull := true, rd := 1 } := by decide

/-- V-ST-7, at the last element. -/
theorem test_tx_hi_last :
    after (exec .txHi { sFull ST.transfer PH.txHi with rd := 1 }) =
      some { sFull ST.transfer PH.xferPoll with txHold := some 0xAB#8, txFull := true, rd := 2 } := by decide

/-- V-EC-2: coalesced. -/
theorem test_trig_isr :
    after (exec .trigIsr { sAt ST.transfer PH.txHi with trig := true }) =
      some { sAt ST.transfer PH.txHi with trig := true } := by decide

/-- V-EC-8, R133. -/
theorem test_rx_isr_start :
    after (exec .rxIsr { sIdle with rxq := [0x73#8, 0x41#8] }) =
      some { sIdle with rxq := [0x41#8], cmdS := true } := by decide

/-- R133 example. -/
theorem test_rx_isr_other :
    after (exec .rxIsr { sIdle with rxq := [0x78#8, 0x6F#8] }) = some { sIdle with rxq := [0x6F#8] } := by decide

/-- R172. -/
theorem test_host_send :
    after (exec (.hostSend 0x6F#8) { sIdle with rxq := [0x73#8] }) =
      some { sIdle with rxq := [0x73#8, 0x6F#8] } := by decide

/-- V-PE-2 and V-PE-3: both outcomes. -/
theorem test_host_send_overflow :
    State.receive { sIdle with params := { small with rxDepth := 1 }, rxq := [0x73#8] } false 0x6F#8 =
        { sIdle with params := { small with rxDepth := 1 }, rxq := [0x73#8] } ∧
      State.receive { sIdle with params := { small with rxDepth := 1 }, rxq := [0x73#8] } true 0x6F#8 =
        { sIdle with params := { small with rxDepth := 1 }, rxq := [0x6F#8] } := by decide

/-- V-PE-6. -/
theorem test_adc_complete :
    after (exec (.adcComplete 0xBEEF#16) { sAt ST.sampling PH.convWait with adcBusy := true }) =
      some { sAt ST.sampling PH.convWait with adcRes := some 0xBEEF#16, adcDone := true } := by decide

/-- V-ST-5. -/
theorem test_adc_complete_refused :
    refusal (exec (.adcComplete 0x1000#16) { sIdle with params := { small with adcBits := 12 }, adcBusy := true }) =
      some (.word .adcRange) := by decide

/-- V-PE-8. -/
theorem test_tx_shift :
    after (exec .txShift { sIdle with txFull := true, txHold := some 0x5A#8, hostOut := [0x01#8] }) =
      some { sIdle with txHold := some 0x5A#8, hostOut := [0x01#8, 0x5A#8] } := by decide

/-- R125 example. -/
theorem test_signal_trigger :
    after (exec .signalTrigger sIdle) = some { sIdle with trig := true } := by decide

/-- R126 example. -/
theorem test_signal_cmd_s :
    after (exec .signalCmdS sIdle) = some { sIdle with cmdS := true } := by decide

/-- R127 example. -/
theorem test_signal_cmd_o :
    after (exec .signalCmdO { sIdle with cmdO := true }) = some { sIdle with cmdO := true } := by decide

/-- V-EC-3. -/
theorem test_tac_trigger :
    after (exec .tacTrigger { sIdle with trig := true }) = some { sIdle with ret := some 1#16 } := by decide

/-- R129 example. -/
theorem test_tac_cmd_s :
    after (exec .tacCmdS { sIdle with cmdO := true }) = some { sIdle with cmdO := true, ret := some 0#16 } := by decide

/-- R130 example. -/
theorem test_tac_cmd_o :
    after (exec .tacCmdO { sIdle with cmdO := true }) = some { sIdle with ret := some 1#16 } := by decide

/-- R131 example. -/
theorem test_clear_trigger :
    after (exec .clearTrigger { sIdle with trig := true }) = some sIdle := by decide

/-- R162 example. -/
theorem test_start_conversion :
    after (exec .startConversion sIdle) = some { sIdle with adcBusy := true } := by decide

/-- R163 example. -/
theorem test_is_conversion_done :
    after (exec .isConversionDone { sIdle with adcDone := true }) =
      some { sIdle with adcDone := true, ret := some 1#16 } := by decide

/-- R164 example. -/
theorem test_read_conversion_result :
    after (exec .readConversionResult { sIdle with adcDone := true, adcRes := some 0x03FF#16 }) =
      some { sIdle with adcRes := some 0x03FF#16, ret := some 0x03FF#16 } := by decide

/-- R165 example. -/
theorem test_send_byte :
    after (exec (.sendByte 0xCD#8) sIdle) = some { sIdle with txHold := some 0xCD#8, txFull := true } := by decide

/-- R166 example. -/
theorem test_received_byte_available :
    after (exec .receivedByteAvailable { sIdle with rxq := [0x73#8] }) =
      some { sIdle with rxq := [0x73#8], ret := some 1#16 } := by decide

/-- R167 example. -/
theorem test_read_byte :
    after (exec .readByte { sIdle with rxq := [0x73#8, 0x6F#8] }) =
      some { sIdle with rxq := [0x6F#8], ret := some 0x73#16 } := by decide

/-- R168 example. -/
theorem test_set_indicator :
    after (exec (.setIndicator .transfer) sIdle) = some { sIdle with ind := some 0b10#2 } := by decide

/-- R169 example. -/
theorem test_flush_rx :
    after (exec .flushRx { sIdle with rxq := [0x73#8, 0x41#8], cmdS := true }) =
      some { sIdle with cmdS := true } := by decide

/-- R170. -/
theorem test_on_edge_interrupt :
    after (exec .onEdgeInterrupt sIdle) = some sIdle := by decide

/-- R171. -/
theorem test_on_byte_received_interrupt :
    after (exec .onByteReceivedInterrupt sIdle) = some sIdle := by decide

/-- E12. -/
theorem test_hb_start :
    after (exec .hbStart sIdle) = some { sIdle with cmdS := true } := by decide

/-- E12. -/
theorem test_hb_cont :
    after (exec .hbCont sIdle) = some { sIdle with cmdO := true } := by decide

/-- E12. -/
theorem test_hb_other :
    after (exec (.hbOther 0x53#8) sIdle) = some sIdle := by decide

/-! ## Faults, stuck words, and the host's view of one step -/

/-- V-SM-17. -/
theorem test_bad_control_st :
    after (exec .idleTop (sAt 0b11#2 PH.top)) =
      some { sAt 0b11#2 PH.top with fault := some ⟨.badControl, 0x01#8⟩ } := by decide

/-- V-SM-16. -/
theorem test_bad_control_ph :
    after (exec .sampTop (sAt ST.idle 5#4)) =
      some { sAt ST.idle 5#4 with fault := some ⟨.badControl, 0x04#8⟩ } := by decide

/-- V-ST-11. -/
theorem test_tx_lo_unwritten :
    after (exec .txLo { sAt ST.transfer PH.txLo with wr := 2, rd := 1, buf := [(0, 1#16)] }) =
      some { sAt ST.transfer PH.txLo with
      wr := 2, rd := 1, buf := [(0, 1#16)], fault := some ⟨.unwrittenRead, 0x0A#8⟩ } := by decide

/-- V-ST-13. -/
theorem test_conv_start_unread :
    after (exec .convStart { sAt ST.sampling PH.convStart with adcDone := true, adcRes := some 5#16 }) =
      some { sAt ST.sampling PH.convStart with
      adcDone := true, adcRes := some 5#16, fault := some ⟨.adcBusy, 0x08#8⟩ } := by decide

/-- V-SM-19, V-ST-2, V-ST-8. -/
theorem test_stuck_main :
    stuckOn (exec .sampTop sIdle) = some 0x04#8 ∧
    stuckOn (exec .convCollect { sAt ST.sampling PH.convWait with adcBusy := true }) = some 0x09#8 ∧
    stuckOn (exec .txLo { sFull ST.transfer PH.txLo with txFull := true }) = some 0x0A#8 := by decide

/-- V-EC-11, V-PE-4, V-PE-5. -/
theorem test_stuck_agents :
    stuckOn (exec .rxIsr sIdle) = some 0x11#8 ∧
    stuckOn (exec (.adcComplete 5#16) sIdle) = some 0x21#8 ∧
    stuckOn (exec .txShift sIdle) = some 0x22#8 := by decide

/-- V-EX-1. -/
theorem test_stuck_faulted :
    stuckOn (exec .trigIsr sFaulted) = some 0x10#8 ∧
    stuckOn (exec (.hostSend 0x73#8) sFaulted) = some 0x20#8 ∧
    stuckOn (exec .idleTop sFaulted) = some 0x01#8 := by decide

/-- The word placed is the one the next step runs (log 2). -/
theorem test_step_places_a_word :
    (after (step (State.reset.withFetchWord 24 0x040000))).map (fun t => (t.st, t.ph, t.ind, t.trace)) =
      some (ST.sampling, PH.convStart, some 0b01#2, []) := by decide

/-- A host byte is taken by the RX_ISR placed with it; a prim's word is refused (V-EN-10). -/
theorem test_step_places_a_host_byte :
    (after (step (State.reset.withFetchWord 8 0x73))).map (fun t => (t.cmdS, t.rxq)) = some (true, []) ∧
      refusal (step (State.reset.withFetchWord 24 0x430000)) = some (.word .primNotSchedulable) := by decide

/-- R160, R161. -/
theorem test_ports :
    Port.level .txReady sIdle = some 1 ∧
    Port.level .rxData { sIdle with rxq := [0x73#8] } = some 0x73 ∧
    Port.level .ind sReset = none ∧
    Port.level .rxData sIdle = none ∧
    Port.trigIn.domain = .async := by decide

/-- R160's row trig_in, R175: both operations, and an edge of polarity TRIG_EDGE only. -/
theorem test_trigger_port :
    Port.faces .trigIn .trigIsr = true ∧ Port.faces .trigIn .onEdgeInterrupt = true ∧
      Port.faces .rxData .trigIsr = false ∧ triggerEdge small small.trigEdge = some .trigIsr ∧
      triggerEdge { small with trigEdge := .falling } .rising = none := by decide

theorem test_reset_memory_wf :
    Memory.wf State.reset.buf := by decide

/-! ## Witnesses: states and operands that meet the hypotheses of each statement -/

theorem witness_TraceWordRoundTrip :
    (Instr.adcComplete 0x03FF#16).schedulable = true ∧ (Instr.adcComplete 0x03FF#16).wellFormed 10 = true ∧
      (Instr.hostSend 0xFF#8).schedulable = true ∧ (Instr.hostSend 0xFF#8).wellFormed 10 = true := by decide

theorem witness_TraceDecoderAcceptsOnlyItsWords :
    decodeTrace 10 0x2103FF#24 = .ok (.adcComplete 0x03FF#16) := by decide

theorem witness_PrimWordsRefused :
    0x30 ≤ (0x32#8).toNat ∧ (0x32#8).toNat ≤ 0x32 ∧ 0x40 ≤ (0x46#8).toNat ∧ (0x46#8).toNat ≤ 0x46 ∧
      0x50 ≤ (0x59#8).toNat ∧ (0x59#8).toNat ≤ 0x59 ∧ Instr.tick.cls = .prim := by decide

theorem witness_IllegalWordsRefused :
    0x0C ≤ (0x0C#8).toNat ∧ (0x0C#8).toNat ≤ 0x0F ∧ 0x5A ≤ (0xFF#8).toNat ∧ (0x0B#8).toNat ≤ 0x0B ∧ 1#16 ≠ 0#16 ∧
      highByte 0x0100#16 ≠ 0#8 ∧ 2 ^ 10 ≤ (0x0400#16).toNat := by decide

theorem witness_RxIsrRunsTheHostByte :
    ({ sIdle with rxq := [0x73#8] } : State).fault = none ∧
      ({ sIdle with rxq := [0x73#8] } : State).rxq = 0x73#8 :: [] := by decide

theorem witness_StepRunsTheDecodedWord :
    sReset.params.Admitted ∧ ({ sReset with trace := [0x010000#24] } : State).trace = 0x010000#24 :: [] ∧
      decodeTrace sReset.params.adcBits 0x010000#24 = .ok .idleTop := by decide

theorem witness_StepRefuses :
    sReset.params.Admitted ∧ decodeTrace sReset.params.adcBits 0x300000#24 = .error .primNotSchedulable ∧
      ¬ ({ small with n := 0 } : Config.Params).Admitted := by decide

theorem witness_PerformedExactlyWhenEnabled :
    Instr.idleTop.schedulable = true ∧ Instr.idleTop.wellFormed 16 = true ∧ enabled .idleTop sIdle = true ∧
      enabled .sampTop sIdle = false := by decide

theorem witness_FreeStepTakesAnEnabledOperation :
    sReset.params.Admitted ∧ sReset.trace = [] := by decide

theorem witness_SignalsNeverDisableMain :
    sIdle.fault = none ∧ (sIdle.st, sIdle.ph) = MainStep.idleTop.control ∧
      ((sAt ST.sampling PH.convWait).st, (sAt ST.sampling PH.convWait).ph) = MainStep.convCollect.control ∧
      ({ sAt ST.sampling PH.convWait with adcDone := true } : State).adcDone = true ∧
      ((sFull ST.transfer PH.txLo).st, (sFull ST.transfer PH.txLo).ph) = MainStep.txLo.control ∧
      (sFull ST.transfer PH.txLo).txFull = false := by decide

theorem witness_MainDispatch :
    sIdle.fault = none ∧ sIdle.legalControl = true ∧ MainStep.sampTop.control ≠ (sIdle.st, sIdle.ph) ∧
      (sAt 0b11#2 PH.top).fault = none ∧ (sAt 0b11#2 PH.top).legalControl = false ∧
      (sAt ST.transfer 5#4).legalControl = false ∧ (sAt ST.idle 9#4).legalControl = false := by decide

theorem witness_ModelFaultContract :
    sFaulted.fault ≠ none ∧ Instr.trigIsr ≠ .reset ∧ Instr.trigIsr.wellFormed 16 = true ∧
      (sFull ST.sampling PH.convStart).fault = none ∧
      (after (exec .convStart (sFull ST.sampling PH.convStart))).map (fun t => t.fault) =
        some (some ⟨.index, 0x08#8⟩) := by decide

theorem witness_FaultConditions :
    sIdle.fault = none ∧ (sAt ST.sampling PH.sampPoll).wr ≠ (sAt ST.sampling PH.sampPoll).params.n ∧
      (sAt ST.transfer PH.txLo).txFull = false ∧ (sAt ST.transfer PH.txHi).wr ≠ 2 ∧
      (sFull ST.transfer PH.top).wr = small.n ∧
        small.m ≤ ({ sFull ST.transfer PH.top with batch := 10 } : State).batch ∧
      small.n ≤ (sFull ST.sampling PH.convStart).wr ∧
      ({ sFull ST.sampling PH.convWait with adcDone := true } : State).adcDone = true ∧
      (sAt ST.sampling PH.convStart).wr < small.n ∧ ({ sIdle with adcBusy := true } : State).adcBusy = true ∧
      sIdle.adcDone = false ∧ sIdle.rxq = [] := by decide

/-- The least admitted machine: N = M = ADC_BITS = RX_DEPTH = 1. -/
def least : Config.Params :=
  { n := 1, m := 1, tDebounce := 0, adcBits := 1, rxDepth := 1, trigEdge := .falling
    adcAnswer := .never, txAnswer := .never }

theorem witness_ResetMeetsTheInvariant :
    small.Admitted ∧ least.Admitted := by decide

/-- S_RESET meets the invariant. -/
theorem small_invariant :
    RunInvariant sReset := by
  refine ⟨by decide, rfl, by decide, ?_⟩
  simp [sReset, State.resetWith, R41, BatchBounded, IndicesBounded, TransferFilled, TransferBatchBelow, IdleEntryDone,
    QueueBounded, ConverterExclusive, ConverterOnlyInWait, EpisodeBatch, FillProgress, SendProgress, ConverterLive,
    ResultInRange, HoldWritten, BufferWf, IndicatorLegal, ST.idle, ST.transfer, ST.sampling]

/-- S_RESET with a word placed, and with a full receive queue: both meet the invariant. -/
theorem small_invariant_placed (w : TraceWord) :
    RunInvariant { sReset with trace := [w] } ∧ RunInvariant { sReset with rxq := [1#8, 2#8, 3#8, 4#8] } := by
  obtain ⟨h1, h2, h3, ⟨a1, a2, a3, a4, a5, -, a7, a8⟩, h⟩ := small_invariant
  exact ⟨small_invariant, h1, h2, h3, ⟨a1, a2, a3, a4, a5, by decide, a7, a8⟩, h⟩

theorem witness_StepKeepsTheInvariant :
    ∃ t, RunInvariant { sReset with trace := [0x010000#24] } ∧
      step { sReset with trace := [0x010000#24] } = .next t := ⟨_, (small_invariant_placed _).1, rfl⟩

theorem witness_TransitionKeepsTheInvariant :
    ∃ t, RunInvariant { sReset with rxq := [1#8, 2#8, 3#8, 4#8] } ∧ (Instr.hostSend 5#8).schedulable = true ∧
      Admits { sReset with rxq := [1#8, 2#8, 3#8, 4#8] } (.hostSend 5#8) t ∧ t.rxq = [2#8, 3#8, 4#8, 5#8] := 
  ⟨_, (small_invariant_placed 0#24).2, rfl, .inr ⟨5#8, true, rfl, rfl, by decide, rfl⟩, by decide⟩

/-- A run from reset: Idle ticks for ever (E6). -/
def idleRun : Run :=
  { state := fun k => if k = 0 then sReset else if k % 2 = 1 then sAt ST.idle PH.idleTest else sIdle
    op := fun k => if k % 2 = 0 then .idleTop else .idleTest
    schedulable := fun k => by
      by_cases h : k % 2 = 0
      · simp only [h, if_true]; rfl
      · simp only [h, if_false]; rfl
    admitted := fun k => .inl (by
      by_cases h0 : k = 0
      · subst h0; rfl
      · rcases Nat.mod_two_eq_zero_or_one k with h | h
        · have h1 : (k + 1) % 2 = 1 := by omega
          simp only [h0, h, h1, Nat.add_eq_zero_iff, false_and, Nat.zero_ne_one, if_false, if_true]; rfl
        · have h1 : (k + 1) % 2 = 0 := by omega
          simp only [h0, h, h1, Nat.add_eq_zero_iff, false_and, Nat.one_ne_zero, Nat.zero_ne_one, if_false, if_true]
          rfl) }

theorem witness_NoRunFromResetFaults :
    small.Admitted ∧ idleRun.state 0 = State.resetWith small := ⟨by decide, rfl⟩

theorem witness_BufferFormKept :
    Memory.wf ({ sAt ST.sampling PH.convWait with adcDone := true, adcRes := some 5#16 } : State).buf ∧
      ∃ t, exec .convCollect { sAt ST.sampling PH.convWait with
        adcDone := true, adcRes := some 5#16 } = .next t := ⟨by decide, _, rfl⟩

theorem witness_ParametersNeverWritten :
    ∃ t, exec .idleTop sIdle = .next t := ⟨_, rfl⟩

theorem witness_BufferPrimitives :
    small.n ≤ 2 ∧ 1 < small.n ∧ Memory.read sIdle.buf 1 = none ∧
      Memory.read (sFull ST.transfer PH.txLo).buf 1 = some 0xABCD#16 := by decide

theorem witness_IdleTopResult :
    (sFull ST.idle PH.top).fault = none ∧ (sFull ST.idle PH.top).st = ST.idle ∧ (sFull ST.idle PH.top).ph = PH.top ∧
      (sAt ST.transfer PH.txHi).legalControl = true ∧ ¬((sAt ST.transfer PH.txHi).st = ST.idle ∧
        (sAt ST.transfer PH.txHi).ph = PH.top) := by decide

theorem witness_IdleTestResult :
    (sFull ST.idle PH.idleTest).fault = none ∧ (sFull ST.idle PH.idleTest).st = ST.idle ∧
      (sFull ST.idle PH.idleTest).ph = PH.idleTest ∧
      (sAt ST.transfer PH.txHi).legalControl = true ∧ ¬((sAt ST.transfer PH.txHi).st = ST.idle ∧
        (sAt ST.transfer PH.txHi).ph = PH.idleTest) := by decide

theorem witness_DebounceDoneResult :
    (sFull ST.idle PH.debounce).fault = none ∧ (sFull ST.idle PH.debounce).st = ST.idle ∧
      (sFull ST.idle PH.debounce).ph = PH.debounce ∧
      (sAt ST.transfer PH.txHi).legalControl = true ∧ ¬((sAt ST.transfer PH.txHi).st = ST.idle ∧
        (sAt ST.transfer PH.txHi).ph = PH.debounce) := by decide

theorem witness_SampTopResult :
    (sFull ST.sampling PH.top).fault = none ∧ (sFull ST.sampling PH.top).st = ST.sampling ∧
      (sFull ST.sampling PH.top).ph = PH.top ∧
      (sAt ST.transfer PH.txHi).legalControl = true ∧ ¬((sAt ST.transfer PH.txHi).st = ST.sampling ∧
        (sAt ST.transfer PH.txHi).ph = PH.top) := by decide

theorem witness_SampPollResult :
    (sFull ST.sampling PH.sampPoll).fault = none ∧ (sFull ST.sampling PH.sampPoll).st = ST.sampling ∧
      (sFull ST.sampling PH.sampPoll).ph = PH.sampPoll ∧
      (sAt ST.transfer PH.txHi).legalControl = true ∧ ¬((sAt ST.transfer PH.txHi).st = ST.sampling ∧
        (sAt ST.transfer PH.txHi).ph = PH.sampPoll) := by decide

theorem witness_XferTopResult :
    (sFull ST.transfer PH.top).fault = none ∧ (sFull ST.transfer PH.top).st = ST.transfer ∧
      (sFull ST.transfer PH.top).ph = PH.top ∧
      (sAt ST.transfer PH.txHi).legalControl = true ∧ ¬((sAt ST.transfer PH.txHi).st = ST.transfer ∧
        (sAt ST.transfer PH.txHi).ph = PH.top) := by decide

theorem witness_XferPollResult :
    (sFull ST.transfer PH.xferPoll).fault = none ∧ (sFull ST.transfer PH.xferPoll).st = ST.transfer ∧
      (sFull ST.transfer PH.xferPoll).ph = PH.xferPoll ∧
      (sAt ST.transfer PH.txHi).legalControl = true ∧ ¬((sAt ST.transfer PH.txHi).st = ST.transfer ∧
        (sAt ST.transfer PH.txHi).ph = PH.xferPoll) := by decide

theorem witness_ConvStartResult :
    (sFull ST.sampling PH.convStart).fault = none ∧ (sFull ST.sampling PH.convStart).st = ST.sampling ∧
      (sFull ST.sampling PH.convStart).ph = PH.convStart ∧
      (sAt ST.transfer PH.txHi).legalControl = true ∧ ¬((sAt ST.transfer PH.txHi).st = ST.sampling ∧
        (sAt ST.transfer PH.txHi).ph = PH.convStart) := by decide

theorem witness_ConvCollectResult :
    (sAt ST.sampling PH.convWait).fault = none ∧ (sAt ST.sampling PH.convWait).st = ST.sampling ∧
      (sAt ST.sampling PH.convWait).ph = PH.convWait ∧
      ({ sAt ST.sampling PH.convWait with adcDone := true, wr := 1 } : State).adcDone = true ∧
      ({ sAt ST.sampling PH.convWait with adcDone := true, wr := 1 } : State).wr < small.n ∧
      small.n ≤ ({ sAt ST.sampling PH.convWait with adcDone := true, wr := 2 } : State).wr ∧
      (sAt ST.sampling PH.convWait).legalControl = true ∧ (sAt ST.sampling PH.convWait).adcDone = false := by decide

theorem witness_TxLoResult :
    (sFull ST.transfer PH.txLo).fault = none ∧ (sFull ST.transfer PH.txLo).st = ST.transfer ∧
      (sFull ST.transfer PH.txLo).ph = PH.txLo ∧ (sFull ST.transfer PH.txLo).txFull = false ∧
      (sAt ST.transfer PH.txLo).wr ≠ small.n ∧ (sFull ST.transfer PH.txLo).wr = small.n ∧
      small.n ≤ ({ sFull ST.transfer PH.txLo with rd := 2 } : State).rd ∧
      ({ sFull ST.transfer PH.txLo with rd := 1 } : State).rd < small.n ∧
      Memory.read (sFull ST.transfer PH.txLo).buf 1 = some 0xABCD#16 ∧
        Memory.read (sAt ST.transfer PH.txLo).buf 1 = none ∧
      ({ sFull ST.transfer PH.txLo with txFull := true } : State).legalControl = true := by decide

theorem witness_TxHiResult :
    (sFull ST.transfer PH.txHi).fault = none ∧ (sFull ST.transfer PH.txHi).st = ST.transfer ∧
      (sFull ST.transfer PH.txHi).ph = PH.txHi ∧ (sFull ST.transfer PH.txHi).txFull = false ∧
      (sAt ST.transfer PH.txHi).wr ≠ small.n ∧ (sFull ST.transfer PH.txHi).wr = small.n ∧
      small.n ≤ ({ sFull ST.transfer PH.txHi with rd := 2 } : State).rd ∧
      ({ sFull ST.transfer PH.txHi with rd := 1 } : State).rd < small.n ∧
      Memory.read (sFull ST.transfer PH.txHi).buf 1 = some 0xABCD#16 ∧
        Memory.read (sAt ST.transfer PH.txHi).buf 1 = none ∧
      ({ sFull ST.transfer PH.txHi with txFull := true } : State).legalControl = true := by decide

theorem witness_StateWrittenOnlyAtTickEnd :
    Instr.debounceDone.schedulable = true ∧
      (after (exec .debounceDone (sAt ST.idle PH.debounce))).map (fun t => t.st) = some ST.sampling := by decide

theorem witness_TickFollowsTheTransitionTable :
    RunInvariant sReset ∧ sReset.ph = PH.top ∧ sReset.st = ST.idle := ⟨small_invariant, rfl, rfl⟩

/-- S_IDLE in Sampling, and with a full buffer in Transfer, meet the invariant. -/
theorem small_invariant_ticks :
    RunInvariant { sAt ST.sampling PH.top with cmdS := true } ∧
      RunInvariant { sFull ST.transfer PH.top with cmdO := true } := by
  constructor <;> refine ⟨by decide, rfl, by decide, ?_⟩ <;>
    simp [sFull, sAt, sIdle, sReset, State.resetWith, R41, BatchBounded, IndicesBounded, TransferFilled,
      TransferBatchBelow, IdleEntryDone, QueueBounded, ConverterExclusive, ConverterOnlyInWait, EpisodeBatch,
      FillProgress, SendProgress, ConverterLive, ResultInRange, HoldWritten, BufferWf, IndicatorLegal, State.Filled,
      Memory.read, Memory.wf, inAdcRange, small, ST.idle, ST.transfer, ST.sampling, PH.top, PH.convStart, PH.convWait,
      PH.sampPoll]
  decide

theorem witness_TickFollowsTheTransitionTable_clauses :
    (∃ s : State, RunInvariant s ∧ s.ph = PH.top ∧ s.st = ST.sampling ∧ s.cmdS = true ∧
      s.params.adcAnswer = .assured) ∧
      ∃ s : State, RunInvariant s ∧ s.ph = PH.top ∧ s.st = ST.transfer ∧ s.cmdO = true ∧ s.batch + 1 < s.params.m ∧
        s.params.txAnswer = .assured :=
  ⟨⟨_, small_invariant_ticks.1, rfl, rfl, rfl, rfl⟩, _, small_invariant_ticks.2, rfl, rfl, rfl, by decide, rfl⟩

theorem witness_SetAndClearOperations :
    sIdle.fault = none := by decide

theorem witness_TestAndClearOperations :
    ({ sIdle with trig := true } : State).fault = none := by decide

theorem witness_TrigIsrResult :
    ∃ t, sIdle.fault = none ∧ exec .trigIsr sIdle = .next t := ⟨_, rfl, rfl⟩

theorem witness_RxIsrResult :
    sIdle.fault = none ∧ sIdle.rxq = [] ∧ ({ sIdle with rxq := [0x6F#8] } : State).rxq = 0x6F#8 :: [] := by decide

theorem witness_HostByteEffects :
    sIdle.fault = none ∧ (Instr.hbOther 0x53#8).wellFormed 16 = true := by decide

theorem witness_CellsTouchedOnlyByTheirPair :
    Instr.idleTest.schedulable = true ∧ Instr.idleTest ≠ .reset ∧
      (after (exec .idleTest { sAt ST.idle PH.idleTest with trig := true })).map (fun t => t.trig) = some false ∧
      (after (exec .trigIsr sIdle)).map (fun t => t.trig) = some true ∧
      (after (exec .rxIsr { sIdle with rxq := [0x73#8] })).map (fun t => t.cmdS) = some true ∧
      (after (exec .rxIsr { sIdle with rxq := [0x6F#8] })).map (fun t => t.cmdO) = some true ∧
      (after (exec .sampPoll { sFull ST.sampling PH.sampPoll with cmdS := true })).map (fun t => t.cmdS) = some false ∧
      (after (exec .xferPoll { sFull ST.transfer PH.xferPoll with
        cmdO := true })).map (fun t => t.cmdO) = some false := by decide

theorem witness_RaceOrdersOfTheTriggerCell :
    (sAt ST.idle PH.idleTest).fault = none ∧ (sAt ST.idle PH.idleTest).st = ST.idle ∧
      (sAt ST.idle PH.idleTest).ph = PH.idleTest ∧ (sAt ST.idle PH.debounce).ph = PH.debounce := by decide

theorem witness_InterruptOrderIsFree :
    ({ sIdle with rxq := [0x73#8] } : State).fault = none ∧
      ({ sIdle with rxq := [0x73#8] } : State).rxq ≠ [] := by decide

theorem witness_HandlersLeaveMainUntouched :
    (∃ t, exec .trigIsr sIdle = .next t) ∧
      ∃ t, exec .rxIsr { sIdle with rxq := [0x73#8] } = .next t := ⟨⟨_, rfl⟩, _, rfl⟩

theorem witness_FillWritesEveryElement :
    (sAt ST.sampling PH.convStart).fault = none ∧ (sAt ST.sampling PH.convStart).st = ST.sampling ∧
      (sAt ST.sampling PH.convStart).ph = PH.convStart ∧ (sAt ST.sampling PH.convStart).wr = 0 ∧ 1 ≤ small.n ∧
      (sAt ST.sampling PH.convStart).adcBusy = false ∧ (sAt ST.sampling PH.convStart).adcDone = false ∧
      small.adcAnswer = .assured := by decide

theorem witness_SendEmitsTheBatch :
    (sFull ST.transfer PH.txLo).fault = none ∧ (sFull ST.transfer PH.txLo).st = ST.transfer ∧
      (sFull ST.transfer PH.txLo).ph = PH.txLo ∧ (sFull ST.transfer PH.txLo).rd = 0 ∧ 1 ≤ small.n ∧
      (sFull ST.transfer PH.txLo).wr = small.n ∧ (sFull ST.transfer PH.txLo).Filled small.n ∧
      (sFull ST.transfer PH.txLo).txFull = false ∧ small.txAnswer = .assured := by decide

theorem witness_BufferHasOneWriter :
    Instr.convCollect.schedulable = true ∧
      (after (exec .convCollect { sAt ST.sampling PH.convWait with adcDone := true, adcRes := some 5#16 })).map
        (fun t => t.buf) = some [(0, 5#16)] := by decide

theorem witness_BufferReadOnlyByTheSend :
    ∃ t, Instr.idleTop.schedulable = true ∧ Instr.idleTop ≠ .txLo ∧ Instr.idleTop ≠ .txHi ∧
      exec .idleTop sIdle = .next t := ⟨_, rfl, by decide, by decide, rfl⟩

theorem witness_ConverterOperations :
    sIdle.fault = none ∧ sIdle.adcBusy = false ∧ sIdle.adcDone = false ∧
      ({ sIdle with adcDone := true, adcRes := some 5#16 } : State).adcDone = true := by decide

theorem witness_SerialOperations :
    sIdle.fault = none ∧ sIdle.txFull = false ∧ ({ sIdle with txFull := true } : State).txFull = true ∧
      ({ sIdle with rxq := [0x73#8] } : State).rxq = 0x73#8 :: [] := by decide

theorem witness_IndicatorAndRegistrations :
    sReset.fault = none := by decide

theorem witness_HostSendResult :
    sIdle.fault = none ∧ ({ sIdle with rxq := [1#8, 2#8, 3#8] } : State).rxq.length < small.rxDepth ∧
      small.rxDepth ≤ ({ sIdle with rxq := [1#8, 2#8, 3#8, 4#8] } : State).rxq.length := by decide

theorem witness_AdcCompleteResult :
    2 ^ 10 ≤ (0x0400#16).toNat ∧ sIdle.fault = none ∧ (0xFFFF#16).toNat < 2 ^ small.adcBits ∧ sIdle.adcBusy = false ∧
      ({ sIdle with adcBusy := true } : State).adcBusy = true := by decide

theorem witness_TxShiftResult :
    sIdle.fault = none ∧ sIdle.txFull = false ∧
      ({ sIdle with txFull := true, txHold := some 2#8 } : State).txFull = true := by decide

theorem witness_HostOutOnlyGrows :
    ∃ t, Instr.txShift.schedulable = true ∧ Instr.txShift ≠ .reset ∧
      exec .txShift { sIdle with txFull := true, txHold := some 2#8 } = .next t := ⟨_, rfl, by decide, rfl⟩

theorem witness_ConversionWaitHangs :
    ∃ t, (sAt ST.sampling PH.convWait).fault = none ∧ (sAt ST.sampling PH.convWait).st = ST.sampling ∧
      (sAt ST.sampling PH.convWait).ph = PH.convWait ∧ (sAt ST.sampling PH.convWait).adcDone = false ∧
      exec .trigIsr (sAt ST.sampling PH.convWait) = .next t ∧
      ({ sAt ST.sampling PH.convWait with rxq := [0x6F#8] } : State).rxq ≠ [] :=
  ⟨_, rfl, rfl, rfl, rfl, rfl, by decide⟩

/-- A machine whose converter and transmitter never answer. -/
def silent : Config.Params := { small with adcAnswer := .never, txAnswer := .never }

/-- In such a machine too, a tick of SAMPLING and a tick of TRANSFER start in the invariant. -/
theorem silent_invariant_ticks :
    RunInvariant { sAt ST.sampling PH.top with params := silent } ∧
      RunInvariant { sFull ST.transfer PH.top with params := silent } := by
  have h := small_invariant_ticks
  exact ⟨h.1, h.2⟩

theorem witness_ConversionWaitHangs_composites :
    (∃ s : State, s.fault = none ∧ s.st = ST.sampling ∧ s.ph = PH.convStart ∧ s.wr = 0 ∧ 1 ≤ s.params.n ∧
      s.adcBusy = false ∧ s.adcDone = false ∧ s.params.adcAnswer = .never) ∧
    ∃ s : State, RunInvariant s ∧ s.st = ST.sampling ∧ s.ph = PH.top ∧ s.params.adcAnswer = .never :=
  ⟨⟨{ sAt ST.sampling PH.convStart with params := silent }, by decide⟩, _, silent_invariant_ticks.1, rfl, rfl, rfl⟩

theorem witness_TransmitWaitHangs_composites :
    (∃ s : State, s.fault = none ∧ s.st = ST.transfer ∧ s.ph = PH.txLo ∧ s.rd = 0 ∧ 1 ≤ s.params.n ∧
      s.wr = s.params.n ∧ s.Filled s.params.n ∧ s.txFull = false ∧ s.params.txAnswer = .never) ∧
    ∃ s : State, RunInvariant s ∧ s.st = ST.transfer ∧ s.ph = PH.top ∧ s.params.txAnswer = .never :=
  ⟨⟨{ sFull ST.transfer PH.txLo with params := silent }, by decide⟩, _, silent_invariant_ticks.2, rfl, rfl, rfl⟩

theorem witness_TransmitWaitHangs :
    ∃ t, ({ sFull ST.transfer PH.txHi with txFull := true } : State).fault = none ∧
      (sFull ST.transfer PH.txHi).st = ST.transfer ∧ (sFull ST.transfer PH.txHi).ph = PH.txHi ∧
      exec .trigIsr { sFull ST.transfer PH.txHi with txFull := true } = .next t := ⟨_, rfl, rfl, rfl, rfl⟩

theorem witness_IdleEntryWindow :
    sReset.fault = none ∧ sReset.st = ST.idle ∧ sReset.ph = PH.top ∧ sReset.entry = true := by decide

end Sys2Proof.Tests
end

section
/-! PROOF. The inversion lemmas that Sys2Proof/Laws/Steps.lean leaves out: all that IDLE_TOP's and IDLE_TEST's bodies can
answer, and the three primitives that can fault on their own. -/

namespace Sys2Proof.Machine

/-- All IDLE_TOP's body can answer. -/
theorem idleTopBody_ok {s t : State} (h : idleTopBody s = .ok t) :
    t = if s.entry = true then
        { s with ind := some 0b00#2, batch := 0, trig := false, rxq := [], entry := false, ph := PH.idleTest }
      else { s with ind := some 0b00#2, ph := PH.idleTest } := by
  rw [← Except.ok.inj h]
  by_cases he : s.entry = true
  · rw [if_pos he]; simp only [State.setIndicator_entry, he, if_true]; rfl
  · rw [if_neg he]; simp only [State.setIndicator_entry, he, Bool.false_eq_true, if_false]; rfl

/-- All IDLE_TEST's body can answer. -/
theorem idleTestBody_ok {s t : State} (h : idleTestBody s = .ok t) :
    t = { s with trig := false, ph := if s.trig = true then PH.debounce else PH.top } :=
  (Except.ok.inj h).symm

/-- All startConversion can answer (R162). -/
theorem startConversion_ok {s t : State} (h : s.startConversion = .ok t) :
    s.adcBusy = false ∧ s.adcDone = false ∧ t = { s with adcBusy := true, adcDone := false } := by
  unfold State.startConversion at h
  split at h
  · exact nomatch h
  · next hc =>
    simp only [Bool.or_eq_true, not_or, Bool.not_eq_true] at hc
    exact ⟨hc.1, hc.2, (Except.ok.inj h).symm⟩

/-- All READ_CONVERSION_RESULT's body can answer (R164). -/
theorem readConversionResultReturning_ok {s t : State} (h : readConversionResultReturning s = .ok t) :
    s.adcDone = true ∧ t = { s.readAdcRes.2 with adcDone := false, ret := some s.readAdcRes.1 } := by
  unfold readConversionResultReturning State.readConversionResult at h
  by_cases hd : s.adcDone = true
  · rw [if_pos hd] at h
    exact ⟨hd, (Except.ok.inj h).symm⟩
  · rw [if_neg hd] at h
    exact nomatch h

/-- All READ_BYTE's body can answer (R167). -/
theorem readByteReturning_ok {s t : State} (h : readByteReturning s = .ok t) :
    ∃ b rest, s.rxq = b :: rest ∧ t = { s with rxq := rest, ret := some (byteSample b) } := by
  unfold readByteReturning State.readByte at h
  cases hr : s.rxq with
  | nil => rw [hr] at h; exact nomatch h
  | cons b rest => rw [hr] at h; exact ⟨b, rest, rfl, (Except.ok.inj h).symm⟩

theorem control_eq_iff {m : MainStep} {s : State} :
    m.control = (s.st, s.ph) ↔ s.st = m.control.1 ∧ s.ph = m.control.2 := by
  rw [Prod.ext_iff, eq_comm, eq_comm (a := s.ph)]

end Sys2Proof.Machine
end

section
/-! PROOF. RunInvariant read at MAIN's control point: what every state of a run has (Sound), what the control point
adds, of the converter (ConverterAt) and of MAIN's registers and the buffer (Asserts). One lemma a step then takes the
assertion of its own control point to that of the next (10_state.md R41, 70_reset_and_hazards.md R236). -/

namespace Sys2Proof.Machine

/-- The part of RunInvariant that names no control point. -/
structure Sound (s : State) : Prop where
  admitted : s.params.Admitted
  noFault : s.fault = none
  batch_le : BatchBounded s
  indices : IndicesBounded s
  queue : QueueBounded s
  result : ResultInRange s
  hold : HoldWritten s
  buffer : BufferWf s
  indicator : IndicatorLegal s

theorem Sound.n_pos {s : State} (h : Sound s) : 0 < s.params.n := h.admitted.1

theorem Sound.m_pos {s : State} (h : Sound s) : 0 < s.params.m := h.admitted.2.1

theorem Sound.rxDepth_pos {s : State} (h : Sound s) : 0 < s.params.rxDepth := by
  obtain ⟨-, -, -, -, hdepth⟩ := h.admitted
  exact hdepth

/-- The converter at a control point: one conversion in progress or completed at CONV_COLLECT's, none elsewhere
(R41, items 7 and 8). -/
def MainStep.ConverterAt (s : State) : MainStep → Prop
  | .convCollect => s.adcBusy = true ∧ s.adcDone = false ∨ s.adcBusy = false ∧ s.adcDone = true
  | _ => s.adcBusy = false ∧ s.adcDone = false

/-- What MAIN's registers and the buffer are at a control point: progress of the episode, of the fill and of the send
(R41, items 3 to 5, and the argument of R236). -/
def MainStep.Asserts (s : State) : MainStep → Prop
  | .idleTop => s.entry = false → s.batch = 0
  | .idleTest | .debounceDone => s.entry = false ∧ s.batch = 0
  | .sampTop => s.batch < s.params.m
  | .convStart | .convCollect => s.batch < s.params.m ∧ s.wr < s.params.n ∧ s.Filled s.wr
  | .sampPoll | .xferTop | .xferPoll => s.batch < s.params.m ∧ s.wr = s.params.n ∧ s.Filled s.params.n
  | .txLo | .txHi => s.batch < s.params.m ∧ s.wr = s.params.n ∧ s.Filled s.params.n ∧ s.rd < s.params.n

/-- RunInvariant at the control point of the MAIN step m. -/
structure InvariantAt (m : MainStep) (s : State) : Prop where
  control : m.control = (s.st, s.ph)
  sound : Sound s
  converter : m.ConverterAt s
  asserts : m.Asserts s

/-- ConverterAt is what RunInvariant says of the converter. -/
theorem MainStep.converterAt_iff {m : MainStep} {s : State} (h : m.control = (s.st, s.ph)) :
    m.ConverterAt s ↔ ConverterExclusive s ∧ ConverterOnlyInWait s ∧ ConverterLive s := by
  obtain ⟨hst, hph⟩ := control_eq_iff.1 h
  simp only [ConverterExclusive, ConverterOnlyInWait, ConverterLive, hst, hph]
  cases m <;> simp only [MainStep.ConverterAt] <;>
    (generalize s.adcBusy = busy, s.adcDone = done; revert busy done; decide)

/-- Asserts is what RunInvariant says of MAIN's registers and the buffer. -/
theorem MainStep.asserts_iff {m : MainStep} {s : State} (h : m.control = (s.st, s.ph)) :
    m.Asserts s ↔ TransferFilled s ∧ TransferBatchBelow s ∧ IdleEntryDone s ∧ EpisodeBatch s ∧ FillProgress s ∧
      SendProgress s := by
  obtain ⟨hst, hph⟩ := control_eq_iff.1 h
  simp only [TransferFilled, TransferBatchBelow, IdleEntryDone, EpisodeBatch, FillProgress, SendProgress, hst, hph]
  cases m <;> simp [MainStep.Asserts, MainStep.control] <;> tauto

theorem runInvariant_iff {s : State} : RunInvariant s ↔ ∃ m, InvariantAt m s := by
  constructor
  · rintro ⟨hadm, hfault, hlegal, ⟨hb, hidx, htf, htb, hidle, hq, hex, honly⟩, hep, hfill, hsend, hlive, hres, hhold, hbuf,
      hind⟩
    obtain ⟨m, hm⟩ := legalControl_iff.1 hlegal
    exact ⟨m, hm, ⟨hadm, hfault, hb, hidx, hq, hres, hhold, hbuf, hind⟩,
      (MainStep.converterAt_iff hm).2 ⟨hex, honly, hlive⟩,
      (MainStep.asserts_iff hm).2 ⟨htf, htb, hidle, hep, hfill, hsend⟩⟩
  · rintro ⟨m, hm, ⟨hadm, hfault, hb, hidx, hq, hres, hhold, hbuf, hind⟩, hc, ha⟩
    obtain ⟨hex, honly, hlive⟩ := (MainStep.converterAt_iff hm).1 hc
    obtain ⟨htf, htb, hidle, hep, hfill, hsend⟩ := (MainStep.asserts_iff hm).1 ha
    exact ⟨hadm, hfault, legalControl_iff.2 ⟨m, hm⟩, ⟨hb, hidx, htf, htb, hidle, hq, hex, honly⟩, hep, hfill, hsend, hlive,
      hres, hhold, hbuf, hind⟩

/-! ### MAIN's steps -/

theorem filled_succ_write {s t : State} {v : Sample} (h : s.Filled s.wr) (ht : t.buf = Memory.write s.buf s.wr v) :
    t.Filled (s.wr + 1) := by
  intro i hi
  rw [ht]
  by_cases he : i = s.wr
  · simp [he, Memory.read_write_same]
  · rw [Memory.read_write_other _ _ he]
    exact h i (by omega)

theorem idleTop_keeps {s t : State} (h : InvariantAt .idleTop s) (ht : idleTopBody s = .ok t) :
    InvariantAt .idleTest t := by
  obtain ⟨hm, hs, hc, ha⟩ := h
  obtain ⟨hst, -⟩ := control_eq_iff.1 hm
  obtain rfl := idleTopBody_ok ht
  have hi : some 0b00#2 ≠ some 0b11#2 := by decide
  cases he : s.entry with
  | true =>
    exact ⟨control_eq_iff.2 ⟨hst, rfl⟩,
      { hs with batch_le := Nat.zero_le _, queue := Nat.zero_le _, indicator := hi }, hc, rfl, rfl⟩
  | false => exact ⟨control_eq_iff.2 ⟨hst, rfl⟩, { hs with indicator := hi }, hc, rfl, ha he⟩

theorem idleTest_keeps {s t : State} (h : InvariantAt .idleTest s) (ht : idleTestBody s = .ok t) :
    InvariantAt (if s.trig then .debounceDone else .idleTop) t := by
  obtain ⟨hm, hs, hc, he, hb⟩ := h
  obtain ⟨hst, -⟩ := control_eq_iff.1 hm
  obtain rfl := idleTestBody_ok ht
  cases s.trig with
  | true => exact ⟨control_eq_iff.2 ⟨hst, rfl⟩, { hs with }, hc, he, hb⟩
  | false => exact ⟨control_eq_iff.2 ⟨hst, rfl⟩, { hs with }, hc, fun _ => hb⟩

theorem debounceDone_keeps {s t : State} (h : InvariantAt .debounceDone s) (ht : debounceDoneBody s = .ok t) :
    InvariantAt .sampTop t := by
  obtain ⟨-, hs, hc, -, hb⟩ := h
  obtain rfl := Except.ok.inj ht
  exact ⟨rfl, { hs with }, hc, lt_of_eq_of_lt hb hs.m_pos⟩

theorem sampTop_keeps {s t : State} (h : InvariantAt .sampTop s) (ht : sampTopBody s = .ok t) :
    InvariantAt .convStart t := by
  obtain ⟨hm, hs, hc, hb⟩ := h
  obtain ⟨hst, -⟩ := control_eq_iff.1 hm
  obtain rfl := Except.ok.inj ht
  refine ⟨control_eq_iff.2 ⟨hst, rfl⟩, { hs with indices := ⟨Nat.zero_le _, hs.indices.2⟩, indicator := ?_ }, hc, hb,
    hs.n_pos, fun i hi => absurd hi i.not_lt_zero⟩
  exact show some (indicatorCode .sampling) ≠ some 0b11#2 by decide

theorem convStart_keeps {s t : State} (h : InvariantAt .convStart s) (ht : convStartBody s = .ok t) :
    InvariantAt .convCollect t := by
  obtain ⟨hm, hs, -, ha⟩ := h
  obtain ⟨hst, -⟩ := control_eq_iff.1 hm
  obtain ⟨-, -, -, rfl⟩ := convStartBody_ok ht
  exact ⟨control_eq_iff.2 ⟨hst, rfl⟩, { hs with result := ⟨hs.result.1, nofun⟩ }, .inl ⟨rfl, rfl⟩, ha⟩

theorem convCollect_keeps {s t : State} (h : InvariantAt .convCollect s) (ht : convCollectBody s = .ok t) :
    InvariantAt (if s.wr + 1 = s.params.n then .sampPoll else .convStart) t := by
  obtain ⟨hm, hs, hc, hb, -, hfill⟩ := h
  obtain ⟨hst, -⟩ := control_eq_iff.1 hm
  obtain ⟨hd, hw, rfl⟩ := convCollectBody_ok ht
  obtain ⟨v, hv⟩ := Option.isSome_iff_exists.1 (hs.result.2 hd)
  have hread : s.readAdcRes.1 = v := by simp [State.readAdcRes, hv]
  have hbusy : s.adcBusy = false := by
    rcases hc with ⟨-, h⟩ | ⟨h, -⟩
    · simp [hd] at h
    · exact h
  have hsound : Sound { s with
      buf := Memory.write s.buf s.wr s.readAdcRes.1, wr := s.wr + 1, adcDone := false, draws := s.readAdcRes.2.draws
      ph := if s.wr + 1 = s.params.n then PH.sampPoll else PH.convStart } := by
    refine { hs with indices := ⟨hw, hs.indices.2⟩, result := ⟨hs.result.1, nofun⟩, buffer := ?_ }
    refine ⟨Memory.wf_write _ _ hs.buffer.1, fun e he => ?_⟩
    rcases Memory.mem_write he with rfl | he
    · exact ⟨hw, by rw [hread]; exact hs.result.1 v hv⟩
    · exact hs.buffer.2 e he
  by_cases hn : s.wr + 1 = s.params.n
  · simp only [if_pos hn] at hsound ⊢
    exact ⟨control_eq_iff.2 ⟨hst, rfl⟩, hsound, ⟨hbusy, rfl⟩, hb, hn, hn ▸ filled_succ_write hfill rfl⟩
  · simp only [if_neg hn] at hsound ⊢
    exact ⟨control_eq_iff.2 ⟨hst, rfl⟩, hsound, ⟨hbusy, rfl⟩, hb, by simp only; omega, filled_succ_write hfill rfl⟩

theorem sampPoll_keeps {s t : State} (h : InvariantAt .sampPoll s) (ht : sampPollBody s = .ok t) :
    InvariantAt (if s.cmdS then .xferTop else .idleTop) t := by
  obtain ⟨-, hs, hc, ha⟩ := h
  obtain ⟨-, rfl⟩ := sampPollBody_ok ht
  cases s.cmdS with
  | true => exact ⟨rfl, { hs with }, hc, ha⟩
  | false => exact ⟨rfl, { hs with }, hc, nofun⟩

theorem xferTop_keeps {s t : State} (h : InvariantAt .xferTop s) (ht : xferTopBody s = .ok t) :
    InvariantAt .txLo t := by
  obtain ⟨hm, hs, hc, hb, hw, hfill⟩ := h
  obtain ⟨hst, -⟩ := control_eq_iff.1 hm
  obtain ⟨-, -, rfl⟩ := xferTopBody_ok ht
  refine ⟨control_eq_iff.2 ⟨hst, rfl⟩, { hs with indices := ⟨hs.indices.1, Nat.zero_le _⟩, indicator := ?_ }, hc, hb, hw,
    hfill, hs.n_pos⟩
  exact show some 0b10#2 ≠ some 0b11#2 by decide

theorem txLo_keeps {s t : State} (h : InvariantAt .txLo s) (ht : txLoBody s = .ok t) : InvariantAt .txHi t := by
  obtain ⟨hm, hs, hc, ha⟩ := h
  obtain ⟨hst, -⟩ := control_eq_iff.1 hm
  obtain ⟨-, -, v, -, rfl⟩ := txLoBody_ok ht
  exact ⟨control_eq_iff.2 ⟨hst, rfl⟩, { hs with hold := fun _ => rfl }, hc, ha⟩

theorem txHi_keeps {s t : State} (h : InvariantAt .txHi s) (ht : txHiBody s = .ok t) :
    InvariantAt (if s.rd + 1 = s.params.n then .xferPoll else .txLo) t := by
  obtain ⟨hm, hs, hc, hb, hw, hfill, -⟩ := h
  obtain ⟨hst, -⟩ := control_eq_iff.1 hm
  obtain ⟨-, hr, v, -, rfl⟩ := txHiBody_ok ht
  have hidx : s.wr ≤ s.params.n ∧ s.rd + 1 ≤ s.params.n := ⟨hs.indices.1, hr⟩
  by_cases hn : s.rd + 1 = s.params.n
  · simp only [if_pos hn]
    exact ⟨control_eq_iff.2 ⟨hst, rfl⟩, { hs with hold := fun _ => rfl, indices := hidx }, hc, hb, hw, hfill⟩
  · simp only [if_neg hn]
    exact ⟨control_eq_iff.2 ⟨hst, rfl⟩, { hs with hold := fun _ => rfl, indices := hidx }, hc, hb, hw, hfill,
      by simp only; omega⟩

theorem xferPoll_keeps {s t : State} (h : InvariantAt .xferPoll s) (ht : xferPollBody s = .ok t) :
    InvariantAt (if s.cmdO = true ∧ s.batch + 1 ≠ s.params.m then .sampTop else .idleTop) t := by
  obtain ⟨-, hs, hc, hb, -, -⟩ := h
  obtain ⟨-, rfl⟩ := xferPollBody_ok ht
  have hbatch : s.batch + 1 ≤ s.params.m := hb
  by_cases hn : s.cmdO = true ∧ s.batch + 1 ≠ s.params.m
  · simp only [if_pos hn]
    exact ⟨rfl, { hs with batch_le := hbatch }, hc, by simp only [MainStep.Asserts]; omega⟩
  · simp only [if_neg hn]
    exact ⟨rfl, { hs with batch_le := hbatch }, hc, nofun⟩

/-- MAIN's step from its own control point leaves the invariant at the next one. -/
theorem main_keeps {m : MainStep} {s t : State} (h : InvariantAt m s) (ht : m.body s = .ok t) : RunInvariant t := by
  refine runInvariant_iff.2 ?_
  cases m with
  | idleTop => exact ⟨_, idleTop_keeps h ht⟩
  | idleTest => exact ⟨_, idleTest_keeps h ht⟩
  | debounceDone => exact ⟨_, debounceDone_keeps h ht⟩
  | sampTop => exact ⟨_, sampTop_keeps h ht⟩
  | convStart => exact ⟨_, convStart_keeps h ht⟩
  | convCollect => exact ⟨_, convCollect_keeps h ht⟩
  | sampPoll => exact ⟨_, sampPoll_keeps h ht⟩
  | xferTop => exact ⟨_, xferTop_keeps h ht⟩
  | txLo => exact ⟨_, txLo_keeps h ht⟩
  | txHi => exact ⟨_, txHi_keeps h ht⟩
  | xferPoll => exact ⟨_, xferPoll_keeps h ht⟩

/-- TX_LO and TX_HI find their element written. -/
theorem elementToSend_of_filled {s : State} (hw : s.wr = s.params.n) (hfill : s.Filled s.params.n)
    (hr : s.rd < s.params.n) : ∃ v, elementToSend s = .ok v := by
  obtain ⟨v, hv⟩ := Option.isSome_iff_exists.1 (hfill s.rd hr)
  exact ⟨v, elementToSend_ok_iff.2 ⟨hw, hr, hv⟩⟩

/-- In the invariant MAIN's step, once what it waits for has come, raises no model fault (R236). -/
theorem main_ne_error {m : MainStep} {s : State} (h : InvariantAt m s) (hr : m.ready s = true) (e : FaultReason) :
    m.body s ≠ .error e := by
  obtain ⟨-, -, hc, ha⟩ := h
  cases m with
  | idleTop | idleTest | debounceDone | sampTop => exact nofun
  | convStart =>
    obtain ⟨-, hw, -⟩ := ha
    obtain ⟨hb, hd⟩ := hc
    simp [MainStep.body, convStartBody, State.startConversion, hb, hd, Nat.not_le.2 hw]
  | convCollect =>
    obtain ⟨-, hw, -⟩ := ha
    have hd : s.adcDone = true := hr
    simp [MainStep.body, convCollectBody, State.readConversionResult, hd, memWrite, Nat.not_le.2 hw]
  | sampPoll =>
    obtain ⟨-, hw, -⟩ := ha
    cases hcmd : s.cmdS <;> simp [MainStep.body, sampPollBody, hw, State.testAndClear, hcmd]
  | xferTop =>
    obtain ⟨hb, hw, -⟩ := ha
    simp [MainStep.body, xferTopBody, hw, Nat.not_le.2 hb]
  | txLo =>
    obtain ⟨-, hw, hfill, hrd⟩ := ha
    obtain ⟨v, hv⟩ := elementToSend_of_filled hw hfill hrd
    simp [MainStep.body, txLoBody, hv]
  | txHi =>
    obtain ⟨-, hw, hfill, hrd⟩ := ha
    obtain ⟨v, hv⟩ := elementToSend_of_filled hw hfill hrd
    simp [MainStep.body, txHiBody, hv]
  | xferPoll =>
    obtain ⟨hb, -, -⟩ := ha
    intro he
    simp only [MainStep.body, xferPollBody, if_neg (Nat.not_le.2 hb)] at he
    split at he
    · exact nomatch he
    · split at he <;> exact nomatch he

/-! ### The other agents, RESET, and every transition -/

/-- The control point of a state of the invariant names the MAIN step whose assertion it meets. -/
theorem RunInvariant.at_control {m : MainStep} {s : State} (h : RunInvariant s) (hm : m.control = (s.st, s.ph)) :
    InvariantAt m s := by
  obtain ⟨k, hk⟩ := runInvariant_iff.1 h
  obtain rfl : k = m := Option.some.inj ((mainAt_eq_some_iff.2 hk.control).symm.trans (mainAt_eq_some_iff.2 hm))
  exact hk

/-- A byte arriving keeps the queue within RX_DEPTH, whichever byte an overflow drops (R172). -/
theorem receive_keeps {m : MainStep} {s : State} (d : Bool) (b : Byte) (h : InvariantAt m s) :
    InvariantAt m (s.receive d b) := by
  obtain ⟨hm, hs, hc, ha⟩ := h
  have hq := hs.queue
  have hdepth := hs.rxDepth_pos
  unfold State.receive
  split_ifs with hlt
  · exact ⟨hm, { hs with queue := by simpa [QueueBounded] using hlt }, hc, ha⟩
  · exact ⟨hm, { hs with queue := by simp [QueueBounded] at hq ⊢; omega }, hc, ha⟩
  · exact ⟨hm, hs, hc, ha⟩

theorem hostSends_keeps {m : MainStep} {s : State} (b : Byte) (h : InvariantAt m s) :
    InvariantAt m (s.hostSends b) := by
  unfold State.hostSends
  split
  · exact receive_keeps _ b h
  · obtain ⟨hm, hs, hc, ha⟩ := receive_keeps (Config.freeDropOldest s.draws) b h
    exact ⟨hm, { hs with }, hc, ha⟩

theorem takeHostByte_keeps {m : MainStep} {s : State} (b : Byte) (h : InvariantAt m s) :
    InvariantAt m (s.takeHostByte b) := by
  obtain ⟨hm, hs, hc, ha⟩ := h
  unfold State.takeHostByte
  split_ifs
  · exact ⟨hm, { hs with }, hc, ha⟩
  · exact ⟨hm, { hs with }, hc, ha⟩
  · exact ⟨hm, hs, hc, ha⟩

/-- A conversion is in progress at CONV_COLLECT's control point alone, so it completes there (R41, item 8). -/
theorem completeConversion_keeps {m : MainStep} {s : State} {v : Sample} (h : InvariantAt m s) (hb : s.adcBusy = true)
    (hv : inAdcRange s.params v = true) : InvariantAt m (s.completeConversion v) := by
  obtain ⟨hm, hs, hc, ha⟩ := h
  have hres : ResultInRange (s.completeConversion v) := ⟨fun w hw => Option.some.inj hw ▸ hv, fun _ => rfl⟩
  cases m with
  | convCollect => exact ⟨hm, { hs with result := hres }, .inr ⟨rfl, rfl⟩, ha⟩
  | _ => exact absurd (hb.symm.trans hc.1) nofun

theorem shiftOut_keeps {m : MainStep} {s : State} (h : InvariantAt m s) (hx : s.txFull = true) :
    InvariantAt m s.shiftOut := by
  obtain ⟨hm, hs, hc, ha⟩ := h
  obtain ⟨b, hb⟩ := Option.isSome_iff_exists.1 (hs.hold hx)
  have hshift : s.shiftOut = { s with hostOut := s.hostOut ++ [b], txFull := false } := by
    simp [State.shiftOut, State.heldByte, hb]
  rw [hshift]
  exact ⟨hm, { hs with hold := nofun }, hc, ha⟩

/-- A step of another agent keeps MAIN's control point, and what the invariant has there (R209). -/
theorem other_keeps {o : OtherStep} {m : MainStep} {s t : State} (h : InvariantAt m s) (ho : o.Effect s t) :
    InvariantAt m t := by
  cases o with
  | trigIsr =>
    obtain rfl := ho
    obtain ⟨hm, hs, hc, ha⟩ := h
    exact ⟨hm, { hs with }, hc, ha⟩
  | rxIsr =>
    obtain ⟨b, rest, hr, rfl⟩ := ho
    obtain ⟨hm, hs, hc, ha⟩ := h
    have hq := hs.queue
    rw [QueueBounded, hr, List.length_cons] at hq
    exact takeHostByte_keeps b ⟨hm, { hs with queue := Nat.le_of_succ_le hq }, hc, ha⟩
  | hostSend b =>
    obtain rfl := ho
    exact hostSends_keeps b h
  | adcComplete v =>
    obtain ⟨hv, hb, rfl⟩ := ho
    exact completeConversion_keeps h hb hv
  | txShift =>
    obtain ⟨hx, rfl⟩ := ho
    exact shiftOut_keeps h hx

/-- Right after reset MAIN is at IDLE_TOP, with ENTRY = 1 (R230). -/
theorem runInvariant_resetWith {p : Config.Params} (hp : p.Admitted) : RunInvariant (State.resetWith p) :=
  runInvariant_iff.2 ⟨.idleTop, rfl,
    ⟨hp, rfl, Nat.zero_le _, ⟨Nat.zero_le _, Nat.zero_le _⟩, Nat.zero_le _, ⟨nofun, nofun⟩, nofun, ⟨.nil, nofun⟩, nofun⟩,
    ⟨rfl, rfl⟩, nofun⟩

/-- Every operation a trace may hold keeps the invariant (R236). -/
theorem exec_keeps_runInvariant {i : Instr} {s t : State} (h : RunInvariant s) (hi : i.schedulable = true)
    (ht : exec i s = .next t) : RunInvariant t := by
  obtain ⟨m, rfl⟩ | ⟨o, rfl⟩ | rfl := schedulable_cases hi
  · rw [exec_main] at ht
    obtain ⟨-, ⟨hl, -⟩ | ⟨hm, hr, hb | ⟨e, he, -⟩⟩⟩ := performMain_next ht
    · obtain ⟨k, hk⟩ := runInvariant_iff.1 h
      exact absurd (legalControl_iff.2 ⟨k, hk.control⟩) (by simp [hl])
    · exact main_keeps (h.at_control hm) hb
    · exact absurd he (main_ne_error (h.at_control hm) hr e)
  · rw [exec_other] at ht
    obtain ⟨m, hm⟩ := runInvariant_iff.1 h
    exact runInvariant_iff.2 ⟨m, other_keeps hm (other_next ht).2⟩
  · obtain rfl := Host.Outcome.next.inj ht
    obtain ⟨hadm, -⟩ := h
    exact runInvariant_resetWith hadm

/-- Settles O19: MAIN's step takes the assertion of its control point to that of the next, another agent's step keeps
it, and on receive overflow either outcome keeps the queue within RX_DEPTH. -/
theorem transitionKeepsTheInvariant : Obligations.TransitionKeepsTheInvariant := by
  intro s t i h hi ht
  obtain ht | ⟨b, d, -, -, -, rfl⟩ := ht
  · exact exec_keeps_runInvariant h hi ht
  · obtain ⟨m, hm⟩ := runInvariant_iff.1 h
    exact runInvariant_iff.2 ⟨m, receive_keeps d b hm⟩

end Sys2Proof.Machine
end

section
/-! PROOF. When an operation is performed, and what the free schedule takes (00_scope.md R10, R14; 30_encoding.md R80). -/

namespace Sys2Proof.Machine

/-- A body performed always leaves a next state, a model fault's where it raises one (R201). -/
theorem atomically_eq_next (op : Opid) (s : State) (r : Except FaultReason State) :
    ∃ t, atomically op s r = .next t := by
  cases r with
  | ok t => exact ⟨t, rfl⟩
  | error e => exact ⟨s.raiseFault e op, rfl⟩

/-- The outcome of an operation under a guard: performed where it holds, stuck elsewhere (R80). -/
abbrev PerformedIff (g : Bool) (op : Opid) (r : Result) : Prop :=
  if g = true then ∃ t, r = .next t else r = .fault (.notEnabled op)

theorem performedIff_perform (op : Opid) (g : Bool) (body : State → Except FaultReason State) (s : State) :
    PerformedIff (s.fault.isNone && g) op (perform op g body s) := by
  unfold perform PerformedIff
  split
  · exact atomically_eq_next op s (body s)
  · rfl

theorem performedIff_perform_true (op : Opid) (body : State → Except FaultReason State) (s : State) :
    PerformedIff s.fault.isNone op (perform op true body s) := by
  simpa only [Bool.and_true] using performedIff_perform op true body s

theorem performedIff_performMain (m : MainStep) (body : State → Except FaultReason State) (s : State) :
    PerformedIff (m.enabled s) m.toInstr.opid (performMain m body s) := by
  unfold performMain MainStep.enabled
  cases s.fault.isNone with
  | false => exact rfl
  | true =>
    cases mainAt s.st s.ph with
    | none => exact ⟨_, rfl⟩
    | some k =>
      simp only [PerformedIff, Bool.true_and, if_true]
      split
      · exact atomically_eq_next _ s (body s)
      · rfl

theorem enabled_main (m : MainStep) (s : State) : enabled m.toInstr s = m.enabled s := by cases m <;> rfl

/-- Another agent's step, its operand in range, under its guard (R132, R133, R172 to R174). -/
theorem performedIff_other {o : OtherStep} {s : State} (hw : o.toInstr.wellFormed s.params.adcBits = true) :
    PerformedIff (enabled o.toInstr s) o.toInstr.opid (o.run s) := by
  cases o with
  | trigIsr => simp only [OtherStep.run, execTrigIsr]; exact performedIff_perform_true _ _ s
  | rxIsr => simp only [OtherStep.run, execRxIsr]; exact performedIff_perform _ _ _ s
  | hostSend b => simp only [OtherStep.run, execHostSend]; exact performedIff_perform_true _ _ s
  | adcComplete v =>
    have hv : inAdcRange s.params v = true := hw
    simp only [OtherStep.run, execAdcComplete, hv, if_true]
    exact performedIff_perform _ _ _ s
  | txShift => simp only [OtherStep.run, execTxShift]; exact performedIff_perform _ _ _ s

/-- Settles O10: MAIN's dispatch and perform each answer a next state under the guard, stuck elsewhere; RESET has no
guard. -/
theorem performedExactlyWhenEnabled : Obligations.PerformedExactlyWhenEnabled := by
  intro i s hi hw
  obtain ⟨m, rfl⟩ | ⟨o, rfl⟩ | rfl := schedulable_cases hi
  · rw [enabled_main, StuckAt, exec_main]
    exact performedIff_performMain m m.body s
  · rw [StuckAt, exec_other]
    exact performedIff_other hw
  · exact ⟨s.resetKeeping, rfl⟩

/-- No guard reads the count of free values. -/
theorem enabled_withDraws (i : Instr) (s : State) (d : Nat) : enabled i { s with draws := d } = enabled i s := rfl

/-- The operations offered to a free choice are such as a trace may hold, the free operands in range (R173). -/
theorem schedulable_of_mem_schedulableInstrs {c : Config.Choice} {p : Config.Params} {i : Instr}
    (h : i ∈ schedulableInstrs c p) : i.schedulable = true ∧ i.wellFormed p.adcBits = true := by
  have hrange := inAdcRange_boundToAdc p c.value
  simp only [schedulableInstrs, List.mem_cons, List.not_mem_nil, or_false] at h
  rcases h with rfl | rfl | rfl | rfl | rfl | rfl | rfl | rfl | rfl | rfl | rfl | rfl | rfl | rfl | rfl | rfl | rfl <;>
    simp_all [Instr.schedulable, Instr.cls, Instr.wellFormed, inAdcRange]

/-- The free choice is one of the candidates, since RESET is always one (R230). -/
theorem chosen_mem_candidates (c : Config.Choice) (s : State) : chosen c s ∈ candidates c s := by
  have hreset : Instr.reset ∈ candidates c s := by simp [candidates, schedulableInstrs, enabled]
  have hlt : c.pick % (candidates c s).length < (candidates c s).length := Nat.mod_lt _ (List.length_pos_of_mem hreset)
  rw [chosen, ← List.getElem_eq_getD (h := hlt)]
  exact List.getElem_mem hlt

theorem step_of_trace_nil {s : State} (hp : s.params.Admitted) (ht : s.trace = []) :
    step s = exec (chosen (Config.freeSchedule s.draws) s) { s with draws := s.draws + 1 } := by
  simp only [step, fetch, if_pos hp, ht]

/-- Settles O11: the choice is a candidate, so it is enabled, and an enabled operation is performed. -/
theorem freeStepTakesAnEnabledOperation : Obligations.FreeStepTakesAnEnabledOperation := by
  intro s hp ht
  obtain ⟨hmem, hen⟩ := List.mem_filter.1 (chosen_mem_candidates (Config.freeSchedule s.draws) s)
  obtain ⟨hs, hw⟩ := schedulable_of_mem_schedulableInstrs hmem
  have hstep := step_of_trace_nil hp ht
  have hperf := performedExactlyWhenEnabled _ { s with draws := s.draws + 1 } hs hw
  rw [enabled_withDraws, if_pos hen] at hperf
  obtain ⟨t, hexec⟩ := hperf
  exact ⟨_, t, hs, hw, hen, hstep, hstep.trans hexec⟩

theorem step_of_decodeTrace_error {s : State} {w : TraceWord} {rest : List TraceWord} {e : DecodeError}
    (hp : s.params.Admitted) (ht : s.trace = w :: rest) (hd : decodeTrace s.params.adcBits w = .error e) :
    step s = .refused (.word e) := by
  simp only [step, fetch, if_pos hp, ht, hd]

theorem step_of_not_admitted {s : State} (hp : ¬ s.params.Admitted) : step s = .refused .badParameters := by
  rw [step, fetch, if_neg hp]

/-- Settles O9: fetch tests the parameters first, then hands on the trace decoder's refusal. -/
theorem stepRefuses : Obligations.StepRefuses :=
  ⟨fun _ _ _ _ => step_of_decodeTrace_error, fun _ => step_of_not_admitted⟩

/-- leastWidth k is the least w with k < 2^w (R8). -/
theorem lt_two_pow_iff_leastWidth_le (k w : Nat) : k < 2 ^ w ↔ leastWidth k ≤ w := by
  unfold leastWidth
  split
  · next hk => simp [hk]
  · next hk => rw [← Nat.log2_lt hk, Nat.succ_le_iff]

/-- Settles O23: the two reference widths by evaluation, the rest by the bound on leastWidth. -/
theorem derivedWidthsAreLeast : Obligations.DerivedWidthsAreLeast :=
  ⟨by decide, by decide, fun p w => ⟨lt_two_pow_iff_leastWidth_le p.m w, lt_two_pow_iff_leastWidth_le p.n w⟩⟩

end Sys2Proof.Machine
end

section
/-! PROOF. What every operation keeps, said once for the composites: a property kept by MAIN's bodies, by the other agents'
steps, by a model fault and by a free value drawn is kept by TICK, FILL and SEND (40_state_machine.md R100); and the
parameters, which nothing writes (00_scope.md R13). -/

namespace Sys2Proof.Machine

/-- A property of states that the pieces a composite is made of keep. -/
structure KeptByPieces (P : State → Prop) : Prop where
  main : ∀ (m : MainStep) (s t : State), P s → m.body s = .ok t → P t
  other : ∀ (o : OtherStep) (s t : State), P s → o.Effect s t → P t
  raiseFault : ∀ (s : State) (r : FaultReason) (op : Opid), P s → P (s.raiseFault r op)
  draw : ∀ (s : State) (d : Nat), P s → P { s with draws := d }

/-- What a sequence answers has P where its first operation leaves P and the next one keeps it. -/
theorem andThen_keeps {P : State → Prop} {r : Result} {k : State → Result} (hr : ∀ a, r = .next a → P a)
    (hk : ∀ a t, P a → k a = .next t → P t) {t : State} (h : andThen r k = .next t) : P t := by
  obtain ⟨a, ha, ⟨-, rfl⟩ | ⟨-, ht⟩⟩ := andThen_next h
  · exact hr _ ha
  · exact hk a t (hr a ha) ht

theorem perform_keeps {P : State → Prop} {op : Opid} {g : Bool} {body : State → Except FaultReason State} {s t : State}
    (hfault : ∀ r, P (s.raiseFault r op)) (hbody : ∀ t, body s = .ok t → P t) (h : perform op g body s = .next t) :
    P t := by
  obtain ⟨-, -, ht | ⟨e, -, rfl⟩⟩ := perform_next h
  · exact hbody t ht
  · exact hfault e

/-- The body of a primitive, or of a host byte that RX_ISR has read, executed on its own (R125 to R131, R162 to R171). -/
def ownBody : Instr → Option (State → Except FaultReason State)
  | .signalTrigger => some fun s => .ok (s.setCell .trig)
  | .signalCmdS => some fun s => .ok (s.setCell .cmdS)
  | .signalCmdO => some fun s => .ok (s.setCell .cmdO)
  | .tacTrigger => some fun s => .ok (s.testAndClearReturning .trig)
  | .tacCmdS => some fun s => .ok (s.testAndClearReturning .cmdS)
  | .tacCmdO => some fun s => .ok (s.testAndClearReturning .cmdO)
  | .clearTrigger => some fun s => .ok (s.clearCell .trig)
  | .startConversion => some State.startConversion
  | .isConversionDone => some fun s => .ok (s.returning (bitSample s.adcDone))
  | .readConversionResult => some readConversionResultReturning
  | .sendByte b => some fun s => .ok (s.sendByte b)
  | .receivedByteAvailable => some fun s => .ok (s.returning (bitSample s.rxPending))
  | .readByte => some readByteReturning
  | .setIndicator p => some fun s => .ok (s.setIndicator p)
  | .flushRx => some fun s => .ok s.flushRx
  | .onEdgeInterrupt | .onByteReceivedInterrupt | .hbOther _ => some .ok
  | .hbStart => some fun s => .ok (s.takeHostByte startByte)
  | .hbCont => some fun s => .ok (s.takeHostByte contByte)
  | _ => none

/-- exec of a primitive, or of a host byte, is its body under FAULT = 0; SEND_BYTE also waits for TX_FULL = 0 (R165). -/
theorem exec_ownBody {i : Instr} {body : State → Except FaultReason State} (h : ownBody i = some body) (s : State) :
    ∃ g, exec i s = perform i.opid g body s := by
  cases i with
  | sendByte b => cases h; exact ⟨!s.txFull, rfl⟩
  | signalTrigger | signalCmdS | signalCmdO | tacTrigger | tacCmdS | tacCmdO | clearTrigger | startConversion
  | isConversionDone | readConversionResult | receivedByteAvailable | readByte | setIndicator _ | flushRx
  | onEdgeInterrupt | onByteReceivedInterrupt | hbStart | hbCont | hbOther _ => cases h; exact ⟨true, rfl⟩
  | _ => exact nomatch h

/-- An operation may stand in a trace, is a composite, or has a body of its own. -/
theorem schedulable_or_composite_or_ownBody (i : Instr) :
    i.schedulable = true ∨ (i = .tick ∨ i = .fill ∨ i = .send) ∨ ∃ body, ownBody i = some body := by
  cases i with
  | tick | fill | send => simp
  | signalTrigger | signalCmdS | signalCmdO | tacTrigger | tacCmdS | tacCmdO | clearTrigger | startConversion
  | isConversionDone | readConversionResult | sendByte _ | receivedByteAvailable | readByte | setIndicator _ | flushRx
  | onEdgeInterrupt | onByteReceivedInterrupt | hbStart | hbCont | hbOther _ => exact .inr (.inr ⟨_, rfl⟩)
  | _ => exact .inl rfl

section
variable {P : State → Prop} (hP : KeptByPieces P)
include hP

theorem KeptByPieces.execMain (m : MainStep) {s t : State} (hs : P s) (h : exec m.toInstr s = .next t) : P t := by
  rw [exec_main] at h
  obtain ⟨-, ⟨-, rfl⟩ | ⟨-, -, ht | ⟨e, -, rfl⟩⟩⟩ := performMain_next h
  · exact hP.raiseFault _ _ _ hs
  · exact hP.main m s t hs ht
  · exact hP.raiseFault _ _ _ hs

theorem KeptByPieces.execOther (o : OtherStep) {s t : State} (hs : P s) (h : o.run s = .next t) : P t :=
  hP.other o s t hs (other_next h).2

theorem KeptByPieces.interfere {s : State} (hs : P s) : P (interfere s) :=
  interfere_keeps (fun o _ _ => hP.execOther o) hP.draw hs

theorem KeptByPieces.awaitConversion {s t : State} (hs : P s) (h : awaitConversion s = .next t) : P t := by
  unfold Machine.awaitConversion at h
  split at h
  · obtain rfl := Host.Outcome.next.inj h
    exact hs
  · split at h
    · next hb =>
      obtain rfl := Host.Outcome.next.inj h
      simp only [Bool.and_eq_true] at hb
      exact hP.draw _ _ (hP.other (.adcComplete _) s _ hs ⟨inAdcRange_boundToAdc _ _, hb.2, rfl⟩)
    · exact nomatch h

theorem KeptByPieces.awaitTransmitter {m : MainStep} {s t : State} (hs : P s) (h : awaitTransmitter m s = .next t) :
    P t := by
  unfold Machine.awaitTransmitter at h
  split at h
  · obtain rfl := Host.Outcome.next.inj h
    exact hs
  · next hx =>
    split at h
    · obtain rfl := Host.Outcome.next.inj h
      simp only [Bool.or_eq_true, Bool.not_eq_true', not_or, Bool.not_eq_false] at hx
      exact hP.other .txShift s _ hs ⟨hx.1, rfl⟩
    · exact nomatch h

theorem KeptByPieces.fillElement {s t : State} (hs : P s) (h : fillElement s = .next t) : P t :=
  andThen_keeps (fun _ => hP.execMain .convStart (hP.interfere hs))
    (fun _ _ ha => andThen_keeps (fun _ => hP.awaitConversion (hP.interfere ha)) fun _ _ hb => hP.execMain .convCollect hb)
    h

theorem KeptByPieces.sendElement {s t : State} (hs : P s) (h : sendElement s = .next t) : P t :=
  andThen_keeps
    (fun _ => andThen_keeps (fun _ => hP.awaitTransmitter (hP.interfere hs)) fun _ _ hb => hP.execMain .txLo hb)
    (fun _ _ ha => andThen_keeps (fun _ => hP.awaitTransmitter (hP.interfere ha)) fun _ _ hb => hP.execMain .txHi hb)
    h

theorem KeptByPieces.fillBody {s t : State} (hs : P s) (h : fillBody s = .next t) : P t :=
  repeatTimes_keeps (fun _ _ => hP.fillElement) _ s t hs h

theorem KeptByPieces.sendBody {s t : State} (hs : P s) (h : sendBody s = .next t) : P t :=
  repeatTimes_keeps (fun _ _ => hP.sendElement) _ s t hs h

theorem KeptByPieces.execFill {s t : State} (hs : P s) (h : execFill s = .next t) : P t := by
  unfold Machine.execFill at h
  split at h
  · exact hP.fillBody hs h
  · exact nomatch h

theorem KeptByPieces.execSend {s t : State} (hs : P s) (h : execSend s = .next t) : P t := by
  unfold Machine.execSend at h
  split at h
  · exact hP.sendBody hs h
  · exact nomatch h

theorem KeptByPieces.idleTick {s t : State} (hs : P s) (h : idleTick s = .next t) : P t := by
  refine andThen_keeps (fun _ => hP.execMain .idleTop hs) (fun a t ha => ?_) h
  refine andThen_keeps (fun _ => hP.execMain .idleTest (hP.interfere ha)) fun b t hb ht => ?_
  split at ht
  · exact hP.execMain .debounceDone (hP.interfere hb) ht
  · obtain rfl := Host.Outcome.next.inj ht
    exact hb

theorem KeptByPieces.samplingTick {s t : State} (hs : P s) (h : samplingTick s = .next t) : P t :=
  andThen_keeps (fun _ => hP.execMain .sampTop hs)
    (fun _ _ ha => andThen_keeps (fun _ => hP.fillBody ha) fun _ _ hb => hP.execMain .sampPoll (hP.interfere hb)) h

theorem KeptByPieces.transferTick {s t : State} (hs : P s) (h : transferTick s = .next t) : P t :=
  andThen_keeps (fun _ => hP.execMain .xferTop hs)
    (fun _ _ ha => andThen_keeps (fun _ => hP.sendBody ha) fun _ _ hb => hP.execMain .xferPoll (hP.interfere hb)) h

theorem KeptByPieces.execTick {s t : State} (hs : P s) (h : execTick s = .next t) : P t := by
  unfold Machine.execTick at h
  split at h
  · split at h
    · exact hP.idleTick hs h
    · split at h
      · exact hP.samplingTick hs h
      · split at h
        · exact hP.transferTick hs h
        · obtain rfl := Host.Outcome.next.inj h
          exact hP.raiseFault _ _ _ hs
  · exact nomatch h

/-- Every operation keeps what the pieces, RESET, and the primitives on their own keep. -/
theorem KeptByPieces.exec (hreset : ∀ s, P s → P s.resetKeeping)
    (hown : ∀ (i : Instr) (body : State → Except FaultReason State) (s t : State), ownBody i = some body → P s →
      body s = .ok t → P t)
    {i : Instr} {s t : State} (hs : P s) (h : exec i s = .next t) : P t := by
  obtain hi | (rfl | rfl | rfl) | ⟨body, hb⟩ := schedulable_or_composite_or_ownBody i
  · obtain ⟨m, rfl⟩ | ⟨o, rfl⟩ | rfl := schedulable_cases hi
    · exact hP.execMain m hs h
    · exact hP.execOther o hs ((exec_other o s).symm.trans h)
    · obtain rfl := Host.Outcome.next.inj h
      exact hreset s hs
  · exact hP.execTick hs h
  · exact hP.execFill hs h
  · exact hP.execSend hs h
  · obtain ⟨g, hg⟩ := exec_ownBody hb s
    rw [hg] at h
    exact perform_keeps (fun r => hP.raiseFault s r _ hs) (fun t => hown i body s t hb hs) h

end

/-! ### The parameters -/

theorem main_params {m : MainStep} {s t : State} (h : m.body s = .ok t) : t.params = s.params := by
  cases m with
  | idleTop => obtain rfl := idleTopBody_ok h; split <;> rfl
  | idleTest => obtain rfl := idleTestBody_ok h; rfl
  | debounceDone => obtain rfl := Except.ok.inj h; rfl
  | sampTop => obtain rfl := Except.ok.inj h; rfl
  | convStart => obtain ⟨-, -, -, rfl⟩ := convStartBody_ok h; rfl
  | convCollect => obtain ⟨-, -, rfl⟩ := convCollectBody_ok h; rfl
  | sampPoll => obtain ⟨-, rfl⟩ := sampPollBody_ok h; split <;> rfl
  | xferTop => obtain ⟨-, -, rfl⟩ := xferTopBody_ok h; rfl
  | txLo => obtain ⟨-, -, v, -, rfl⟩ := txLoBody_ok h; rfl
  | txHi => obtain ⟨-, -, v, -, rfl⟩ := txHiBody_ok h; rfl
  | xferPoll => obtain ⟨-, rfl⟩ := xferPollBody_ok h; split <;> rfl

theorem other_params {o : OtherStep} {s t : State} (h : o.Effect s t) : t.params = s.params := by
  cases o with
  | trigIsr => obtain rfl := h; simp
  | rxIsr => obtain ⟨b, rest, -, rfl⟩ := h; simp
  | hostSend b => obtain rfl := h; simp
  | adcComplete v => obtain ⟨-, -, rfl⟩ := h; simp
  | txShift => obtain ⟨-, rfl⟩ := h; simp

theorem keptByPieces_params (p : Config.Params) : KeptByPieces fun s => s.params = p where
  main _ _ _ hs h := (main_params h).trans hs
  other _ _ _ hs h := (other_params h).trans hs
  raiseFault _ _ _ hs := hs
  draw _ _ hs := hs

theorem ownBody_params {i : Instr} {body : State → Except FaultReason State} {s t : State} (hb : ownBody i = some body)
    (h : body s = .ok t) : t.params = s.params := by
  cases i with
  | startConversion => cases hb; obtain ⟨-, -, rfl⟩ := startConversion_ok h; rfl
  | readConversionResult =>
    cases hb
    obtain ⟨-, rfl⟩ := readConversionResultReturning_ok h
    exact State.readAdcRes_params s
  | readByte => cases hb; obtain ⟨_, _, -, rfl⟩ := readByteReturning_ok h; rfl
  | hbStart | hbCont => cases hb; cases h; exact State.takeHostByte_params s _
  | signalTrigger | signalCmdS | signalCmdO | tacTrigger | tacCmdS | tacCmdO | clearTrigger | isConversionDone
  | sendByte _ | receivedByteAvailable | setIndicator _ | flushRx | onEdgeInterrupt | onByteReceivedInterrupt
  | hbOther _ => cases hb; cases h; rfl
  | _ => exact nomatch hb

/-- Settles O22: no body writes the parameters, RESET keeps them, and a composite is made of such pieces. -/
theorem parametersNeverWritten : Obligations.ParametersNeverWritten := by
  intro i s t h
  have hown : ∀ (i : Instr) (body : State → Except FaultReason State) (a b : State), ownBody i = some body →
      a.params = s.params → body a = .ok b → b.params = s.params :=
    fun _ _ _ _ hb ha h => (ownBody_params hb h).trans ha
  exact (keptByPieces_params s.params).exec (fun _ hs => hs) hown rfl h

end Sys2Proof.Machine
end

section
/-! PROOF. The invariant along the schedule (10_state.md R41, 70_reset_and_hazards.md R236): what fetch gives, the step
that takes it, and every run from reset. -/

namespace Sys2Proof.Machine

theorem checkOperand_ok {bits : Nat} {i j : Instr} {x : Sample} (h : checkOperand bits i x = .ok j) : j = i := by
  unfold checkOperand at h
  split at h
  all_goals
    split at h
    · exact (Except.ok.inj h).symm
    · exact nomatch h

/-- The trace decoder accepts no prim and no host byte (R78). -/
theorem decodeTrace_schedulable {bits : Nat} {w : TraceWord} {i : Instr} (h : decodeTrace bits w = .ok i) :
    i.schedulable = true := by
  unfold decodeTrace at h
  split at h
  · exact nomatch h
  · split at h
    · next hs => exact checkOperand_ok h ▸ hs
    · exact nomatch h

/-- The free choice is an operation a trace may hold. -/
theorem chosen_schedulable (c : Config.Choice) (s : State) : (chosen c s).schedulable = true :=
  (schedulable_of_mem_schedulableInstrs (List.mem_filter.1 (chosen_mem_candidates c s)).1).1

/-- All fetch can give: an operation a trace may hold, in the state with the schedule moved on. -/
theorem fetch_ok {s u : State} {i : Instr} (h : fetch s = .ok (i, u)) :
    i.schedulable = true ∧ ∃ ws d, u = { s with trace := ws, draws := d } := by
  unfold fetch at h
  split at h
  · split at h
    · next w rest hw =>
      split at h
      · next j hj =>
        obtain ⟨rfl, rfl⟩ := Prod.mk.inj (Except.ok.inj h)
        exact ⟨decodeTrace_schedulable hj, rest, s.draws, rfl⟩
      · exact nomatch h
    · obtain ⟨rfl, rfl⟩ := Prod.mk.inj (Except.ok.inj h)
      exact ⟨chosen_schedulable _ s, s.trace, s.draws + 1, rfl⟩
  · exact nomatch h

/-- All step can do when it answers a next state: some operation a trace may hold, in the state with the schedule moved
on. -/
theorem step_next {s t : State} (h : step s = .next t) :
    ∃ i ws d, i.schedulable = true ∧ exec i { s with trace := ws, draws := d } = .next t := by
  unfold step at h
  split at h
  · next i u hu =>
    obtain ⟨hi, ws, d, rfl⟩ := fetch_ok hu
    exact ⟨i, ws, d, hi, h⟩
  · exact nomatch h

/-- The invariant does not speak of the schedule. -/
theorem RunInvariant.withSchedule {s : State} (h : RunInvariant s) (ws : List TraceWord) (d : Nat) :
    RunInvariant { s with trace := ws, draws := d } := h

/-- Settles O18: step performs an operation a trace may hold, on a state that differs in the schedule alone. -/
theorem stepKeepsTheInvariant : Obligations.StepKeepsTheInvariant := by
  intro s t h ht
  obtain ⟨i, ws, d, hi, hexec⟩ := step_next ht
  exact exec_keeps_runInvariant (h.withSchedule ws d) hi hexec

/-- Settles O17: MAIN is at IDLE_TOP with ENTRY = 1. -/
theorem resetMeetsTheInvariant : Obligations.ResetMeetsTheInvariant := fun _ hp => runInvariant_resetWith hp

/-- The invariant holds all along a run that starts in it, by induction on the run's length. -/
theorem Run.invariant {r : Run} (h0 : RunInvariant (r.state 0)) (k : Nat) : RunInvariant (r.state k) := by
  induction k with
  | zero => exact h0
  | succ k ih => exact transitionKeepsTheInvariant _ _ _ ih (r.schedulable k) (r.admitted k)

/-- Settles O20: the reset state has the invariant, and every transition of the run keeps it. -/
theorem noRunFromResetFaults : Obligations.NoRunFromResetFaults := by
  intro p r hp h0 k
  obtain ⟨-, hfault, hlegal, hinv, -⟩ := Run.invariant (h0 ▸ resetMeetsTheInvariant p hp) k
  exact ⟨hfault, hlegal, hinv⟩

end Sys2Proof.Machine
end

section
/-! PROOF. MAIN's dispatch over the eleven legal pairs (10_state.md R22, 40_state_machine.md R112). -/

namespace Sys2Proof.Machine

/-- Two MAIN steps never share a control point (R112). -/
theorem MainStep.control_injective : Function.Injective MainStep.control := fun _ k h =>
  Option.some.inj ((mainAt_eq_some_iff.2 h).symm.trans (mainAt_control k))

/-- On an illegal pair MAIN's dispatch raises BadControl, whichever the body (R112). -/
theorem performMain_of_illegal {m : MainStep} {body : State → Except FaultReason State} {s : State}
    (hf : s.fault = none) (hl : s.legalControl = false) :
    performMain m body s = .next (s.raiseFault .badControl m.toInstr.opid) := by
  have hm : mainAt s.st s.ph = none := by simpa [State.legalControl] using hl
  simp [performMain, hf, hm]

/-- The control points MAIN dispatches on, listed by ST (R22). -/
theorem mainAt_isSome_iff : ∀ (st : BitVec 2) (ph : BitVec 4), (mainAt st ph).isSome = true ↔
    (st = 0#2 ∧ ph.toNat ≤ 2 ∨ st = 1#2 ∧ (ph = 0#4 ∨ ph = 3#4 ∨ ph = 4#4 ∨ ph = 5#4) ∨
      st = 2#2 ∧ (ph = 0#4 ∨ ph = 6#4 ∨ ph = 7#4 ∨ ph = 8#4)) := by
  decide

/-- Settles O13: the dispatch table is injective, a step away from its own control point is stuck, an illegal pair
faults, and the table's pairs are R22's. -/
theorem mainDispatch : Obligations.MainDispatch := by
  refine ⟨fun s hl => ?_, fun m s hf hl hm => ?_, fun m s hf hl => ?_, fun s => mainAt_isSome_iff s.st s.ph⟩
  · obtain ⟨m, hm⟩ := legalControl_iff.1 hl
    exact ⟨m, hm, fun k hk => MainStep.control_injective (hk.trans hm.symm)⟩
  · exact exec_main_stuck hf hl fun h => hm h.1
  · rw [FaultsWith, exec_main]
    exact performMain_of_illegal hf hl

end Sys2Proof.Machine
end

section
/-! PROOF. Who writes the buffer and the host's bytes (10_state.md R32, R37), and that no operation but the send's two
steps is influenced by what the buffer holds (42_sampler_transmitter.md R147). -/

namespace Sys2Proof.Machine

/-- MAIN's bodies leave HOST_OUT alone, and all but CONV_COLLECT's the buffer (R32, R37). -/
theorem main_hostOut_buf {m : MainStep} {s t : State} (h : m.body s = .ok t) :
    t.hostOut = s.hostOut ∧ (m ≠ .convCollect → t.buf = s.buf) := by
  cases m with
  | idleTop => obtain rfl := idleTopBody_ok h; split <;> exact ⟨rfl, fun _ => rfl⟩
  | idleTest => obtain rfl := idleTestBody_ok h; exact ⟨rfl, fun _ => rfl⟩
  | debounceDone => obtain rfl := Except.ok.inj h; exact ⟨rfl, fun _ => rfl⟩
  | sampTop => obtain rfl := Except.ok.inj h; exact ⟨rfl, fun _ => rfl⟩
  | convStart => obtain ⟨-, -, -, rfl⟩ := convStartBody_ok h; exact ⟨rfl, fun _ => rfl⟩
  | convCollect => obtain ⟨-, -, rfl⟩ := convCollectBody_ok h; exact ⟨rfl, fun hm => absurd rfl hm⟩
  | sampPoll => obtain ⟨-, rfl⟩ := sampPollBody_ok h; split <;> exact ⟨rfl, fun _ => rfl⟩
  | xferTop => obtain ⟨-, -, rfl⟩ := xferTopBody_ok h; exact ⟨rfl, fun _ => rfl⟩
  | txLo => obtain ⟨-, -, v, -, rfl⟩ := txLoBody_ok h; exact ⟨rfl, fun _ => rfl⟩
  | txHi => obtain ⟨-, -, v, -, rfl⟩ := txHiBody_ok h; exact ⟨rfl, fun _ => rfl⟩
  | xferPoll => obtain ⟨-, rfl⟩ := xferPollBody_ok h; split <;> exact ⟨rfl, fun _ => rfl⟩

/-- What MAIN's step does to BUF: CONV_COLLECT in SAMPLING writes the element at WR, any other nothing (R32). -/
theorem exec_main_buf {m : MainStep} {s t : State} (h : exec m.toInstr s = .next t) :
    t.buf = s.buf ∨ m = .convCollect ∧ s.st = ST.sampling ∧ s.wr < s.params.n ∧
      ∀ j, j ≠ s.wr → Memory.read t.buf j = Memory.read s.buf j := by
  rw [exec_main] at h
  obtain ⟨-, ⟨-, rfl⟩ | ⟨hc, -, hb | ⟨e, -, rfl⟩⟩⟩ := performMain_next h
  · exact .inl rfl
  · by_cases hm : m = .convCollect
    · subst hm
      obtain ⟨hst, -⟩ := control_eq_iff.1 hc
      obtain ⟨-, hw, rfl⟩ := convCollectBody_ok hb
      exact .inr ⟨rfl, hst, hw, fun j hj => Memory.read_write_other _ _ hj⟩
    · exact .inl ((main_hostOut_buf hb).2 hm)
  · exact .inl rfl

/-- Settles O49: of MAIN's steps CONV_COLLECT alone writes BUF, the other agents never do. -/
theorem bufferHasOneWriter : Obligations.BufferHasOneWriter := by
  intro i s t hi h
  obtain ⟨m, rfl⟩ | ⟨o, rfl⟩ | rfl := schedulable_cases hi
  · obtain hbuf | ⟨rfl, hcollect⟩ := exec_main_buf h
    · exact .inl hbuf
    · exact .inr (.inr ⟨rfl, hcollect⟩)
  · rw [exec_other] at h
    obtain ⟨-, -, -, -, -, -, -, -, hbuf, -⟩ := other_frame h
    exact .inl hbuf
  · exact .inr (.inl rfl)

theorem exec_main_hostOut {m : MainStep} {s t : State} (h : exec m.toInstr s = .next t) : t.hostOut = s.hostOut := by
  rw [exec_main] at h
  obtain ⟨-, ⟨-, rfl⟩ | ⟨-, -, hb | ⟨e, -, rfl⟩⟩⟩ := performMain_next h
  · rfl
  · exact (main_hostOut_buf hb).1
  · rfl

/-- What another agent's step does to HOST_OUT: TX_SHIFT appends one byte, any other nothing (R37). -/
theorem other_hostOut {o : OtherStep} {s t : State} (h : o.Effect s t) :
    if o.toInstr = .txShift then ∃ b, t.hostOut = s.hostOut ++ [b] else t.hostOut = s.hostOut := by
  cases o with
  | trigIsr => obtain rfl := h; rfl
  | rxIsr => obtain ⟨b, rest, -, rfl⟩ := h; simp [OtherStep.toInstr]
  | hostSend b => obtain rfl := h; simp [OtherStep.toInstr]
  | adcComplete v => obtain ⟨-, -, rfl⟩ := h; rfl
  | txShift => obtain ⟨-, rfl⟩ := h; exact ⟨_, s.shiftOut_hostOut⟩

theorem MainStep.toInstr_ne_txShift (m : MainStep) : m.toInstr ≠ .txShift := by cases m <;> exact nofun

/-- Settles O57: no MAIN step writes HOST_OUT, and of the other agents' TX_SHIFT alone does. -/
theorem hostOutOnlyGrows : Obligations.HostOutOnlyGrows := by
  intro i s t hi hreset h
  obtain ⟨m, rfl⟩ | ⟨o, rfl⟩ | rfl := schedulable_cases hi
  · rw [if_neg m.toInstr_ne_txShift]
    exact exec_main_hostOut h
  · rw [exec_other] at h
    exact other_hostOut (other_next h).2
  · exact absurd rfl hreset

/-! ### TX_SHIFT -/

/-- TX_SHIFT's next state as one update of the state before (R174). -/
theorem State.shiftOut_eq (s : State) :
    s.shiftOut =
      { s with hostOut := s.hostOut ++ [s.heldByte.1], txFull := false, draws := s.heldByte.2.draws } := by
  unfold State.shiftOut State.heldByte
  split <;> rfl

/-- A written holding register is what TX_SHIFT sends, with no free value drawn (R36). -/
theorem State.heldByte_of_txHold {s : State} {b : Byte} (h : s.txHold = some b) : s.heldByte = (b, s) := by
  simp only [State.heldByte, h]

/-- A step of another agent is performed exactly where FAULT = 0 and what its effect asks for is there. -/
theorem other_next_iff {o : OtherStep} {s t : State} : o.run s = .next t ↔ s.fault = none ∧ o.Effect s t := by
  refine ⟨other_next, fun ⟨hf, h⟩ => ?_⟩
  cases o with
  | trigIsr =>
    obtain rfl := h
    rw [OtherStep.run, execTrigIsr, perform_of_guard hf rfl, atomically_ok]
  | rxIsr =>
    obtain ⟨b, rest, hr, rfl⟩ := h
    have hbody : rxIsrBody s = .ok (State.takeHostByte { s with rxq := rest } b) := by
      simp only [rxIsrBody, State.readByte, hr]
    have hpending : s.rxPending = true := by simp [State.rxPending, hr]
    rw [OtherStep.run, execRxIsr, perform_of_guard hf hpending, hbody, atomically_ok]
  | hostSend b =>
    obtain rfl := h
    rw [OtherStep.run, execHostSend, perform_of_guard hf rfl, atomically_ok]
  | adcComplete v =>
    obtain ⟨hv, hb, rfl⟩ := h
    rw [OtherStep.run, execAdcComplete, if_pos hv, perform_of_guard hf hb, atomically_ok]
  | txShift =>
    obtain ⟨hx, rfl⟩ := h
    rw [OtherStep.run, execTxShift, perform_of_guard hf hx, atomically_ok]

/-- Settles O56: TX_SHIFT's guard is TX_FULL, and its effect sends the byte held. -/
theorem txShiftResult : Obligations.TxShiftResult := by
  refine ⟨rfl, fun s hf => ⟨fun hx => ?_, fun hx => ?_⟩⟩
  · have hperf := performedExactlyWhenEnabled .txShift s rfl rfl
    rwa [if_neg (by simp [enabled, hx])] at hperf
  · refine ⟨s.heldByte.1, s.heldByte.2.draws, fun h hh => by simp [State.heldByte_of_txHold hh], ?_⟩
    rw [← State.shiftOut_eq]
    exact other_next_iff (o := .txShift).2 ⟨hf, hx, rfl⟩

/-! ### The buffer replaced -/

/-- The whole buffer replaced. -/
abbrev State.withBuf (s : State) (b : Memory) : State := { s with buf := b }

/-- On a replaced buffer the body answers as before, but for the buffer it leaves. -/
def BufferBlind (body : State → Except FaultReason State) : Prop :=
  ∀ (s : State) (b : Memory), ∃ b', body (s.withBuf b) = (body s).map (State.withBuf · b')

theorem State.readAdcRes_withBuf (s : State) (b : Memory) :
    (s.withBuf b).readAdcRes = (s.readAdcRes.1, s.readAdcRes.2.withBuf b) := by
  cases hr : s.adcRes <;> simp [State.readAdcRes, hr]

/-- CONV_COLLECT writes the buffer, and reads none of it. -/
theorem convCollectBody_bufferBlind : BufferBlind convCollectBody := by
  intro s b
  unfold convCollectBody State.readConversionResult memWrite
  rw [State.readAdcRes_withBuf]
  split_ifs
  · dsimp only
    split_ifs
    · exact ⟨b, rfl⟩
    · exact ⟨_, rfl⟩
  · exact ⟨b, rfl⟩

/-- Of MAIN's bodies, TX_LO's and TX_HI's alone read the buffer (R32, R147): no branch of another tests it. -/
theorem MainStep.body_bufferBlind {m : MainStep} (hlo : m ≠ .txLo) (hhi : m ≠ .txHi) : BufferBlind m.body := by
  cases m with
  | txLo => exact absurd rfl hlo
  | txHi => exact absurd rfl hhi
  | convCollect => exact convCollectBody_bufferBlind
  | idleTest | debounceDone | sampTop => exact fun s b => ⟨b, rfl⟩
  | idleTop =>
    refine fun s b => ⟨b, ?_⟩
    cases he : s.entry <;> simp [MainStep.body, idleTopBody, idleEntry, he, Except.map]
  | convStart =>
    refine fun s b => ⟨b, ?_⟩
    unfold MainStep.body convStartBody State.startConversion
    dsimp only
    split_ifs <;> rfl
  | sampPoll =>
    refine fun s b => ⟨b, ?_⟩
    unfold MainStep.body sampPollBody State.testAndClear
    dsimp only [State.cell]
    split_ifs <;> rfl
  | xferTop =>
    refine fun s b => ⟨b, ?_⟩
    unfold MainStep.body xferTopBody
    dsimp only
    split_ifs <;> rfl
  | xferPoll =>
    refine fun s b => ⟨b, ?_⟩
    unfold MainStep.body xferPollBody State.testAndClear
    dsimp only [State.cell, State.withCell]
    split_ifs <;> rfl

/-- A buffer-blind step of MAIN is performed on a replaced buffer as before. -/
theorem exec_main_withBuf {m : MainStep} (hm : BufferBlind m.body) {s t : State} (h : exec m.toInstr s = .next t)
    (b : Memory) : ∃ b', exec m.toInstr (s.withBuf b) = .next (t.withBuf b') := by
  have hready : m.ready (s.withBuf b) = m.ready s := by cases m <;> rfl
  obtain ⟨b', hb'⟩ := hm s b
  rw [exec_main] at h ⊢
  obtain ⟨hf, ⟨hl, rfl⟩ | ⟨hc, hr, hb⟩⟩ := performMain_next h
  · exact ⟨b, performMain_of_illegal hf hl⟩
  · rw [performMain_of_ready (s := s.withBuf b) hf hc (hready.trans hr), hb']
    obtain hb | ⟨e, hb, rfl⟩ := hb
    · exact ⟨b', by rw [hb]; rfl⟩
    · exact ⟨b, by rw [hb]; rfl⟩

/-- Another agent's step has the same effect on a replaced buffer. -/
theorem other_effect_withBuf {o : OtherStep} {s t : State} (h : o.Effect s t) (b : Memory) :
    o.Effect (s.withBuf b) (t.withBuf b) := by
  cases o with
  | trigIsr => obtain rfl := h; rfl
  | rxIsr =>
    obtain ⟨x, rest, hr, rfl⟩ := h
    refine ⟨x, rest, hr, ?_⟩
    unfold State.takeHostByte
    split_ifs <;> rfl
  | hostSend x =>
    obtain rfl := h
    simp only [OtherStep.Effect, State.hostSends, State.receive]
    split_ifs <;> rfl
  | adcComplete v => obtain ⟨hv, hb, rfl⟩ := h; exact ⟨hv, hb, rfl⟩
  | txShift =>
    obtain ⟨hx, rfl⟩ := h
    refine ⟨hx, ?_⟩
    simp only [State.shiftOut, State.heldByte]
    split <;> rfl

/-- Settles O50: every body but TX_LO's and TX_HI's is blind to the buffer, MAIN's guards and the other agents' steps do
not read it, and RESET empties it. -/
theorem bufferReadOnlyByTheSend : Obligations.BufferReadOnlyByTheSend := by
  intro i s t b hi hlo hhi h
  obtain ⟨m, rfl⟩ | ⟨o, rfl⟩ | rfl := schedulable_cases hi
  · refine exec_main_withBuf (MainStep.body_bufferBlind ?_ ?_) h b
    · rintro rfl
      exact hlo rfl
    · rintro rfl
      exact hhi rfl
  · rw [exec_other] at h ⊢
    obtain ⟨hf, he⟩ := other_next h
    exact ⟨b, other_next_iff.2 ⟨hf, other_effect_withBuf he b⟩⟩
  · obtain rfl := Host.Outcome.next.inj h
    exact ⟨[], rfl⟩

end Sys2Proof.Machine
end

section
/-! PROOF. The Acquisition Buffer's canonical form under every operation, and its two primitives in every case
(20_memory.md R50, R52). -/

namespace Sys2Proof.Machine

/-! ### The canonical form -/

/-- CONV_COLLECT writes one element, which keeps the canonical form; no other body of MAIN writes the buffer (R32). -/
theorem main_keeps_bufferForm {m : MainStep} {s t : State} (hs : Memory.wf s.buf) (h : m.body s = .ok t) :
    Memory.wf t.buf := by
  by_cases hm : m = .convCollect
  · subst hm
    obtain ⟨-, -, rfl⟩ := convCollectBody_ok h
    exact Memory.wf_write _ _ hs
  · obtain ⟨-, hbuf⟩ := main_hostOut_buf h
    rwa [hbuf hm]

/-- The other agents leave the buffer alone (R32, R209). -/
theorem other_buf {o : OtherStep} {s t : State} (h : o.Effect s t) : t.buf = s.buf := by
  cases o with
  | trigIsr => obtain rfl := h; rfl
  | rxIsr => obtain ⟨b, rest, -, rfl⟩ := h; exact State.takeHostByte_buf _ b
  | hostSend b => obtain rfl := h; exact State.hostSends_buf s b
  | adcComplete v => obtain ⟨-, -, rfl⟩ := h; rfl
  | txShift => obtain ⟨-, rfl⟩ := h; exact State.shiftOut_buf s

theorem keptByPieces_bufferForm : KeptByPieces fun s => Memory.wf s.buf where
  main _ _ _ hs h := main_keeps_bufferForm hs h
  other _ _ _ hs h := by rwa [other_buf h]
  raiseFault _ _ _ hs := hs
  draw _ _ hs := hs

/-- A primitive on its own, or a host byte, leaves the buffer alone: none of them is MemWrite. -/
theorem ownBody_buf {i : Instr} {body : State → Except FaultReason State} {s t : State} (hb : ownBody i = some body)
    (h : body s = .ok t) : t.buf = s.buf := by
  cases i with
  | startConversion => cases hb; obtain ⟨-, -, rfl⟩ := startConversion_ok h; rfl
  | readConversionResult =>
    cases hb
    obtain ⟨-, rfl⟩ := readConversionResultReturning_ok h
    exact State.readAdcRes_buf s
  | readByte => cases hb; obtain ⟨_, _, -, rfl⟩ := readByteReturning_ok h; rfl
  | hbStart | hbCont => cases hb; cases h; exact State.takeHostByte_buf s _
  | signalTrigger | signalCmdS | signalCmdO | tacTrigger | tacCmdS | tacCmdO | clearTrigger | isConversionDone
  | sendByte _ | receivedByteAvailable | setIndicator _ | flushRx | onEdgeInterrupt | onByteReceivedInterrupt
  | hbOther _ => cases hb; cases h; rfl
  | _ => exact nomatch hb

/-- Settles O21: the pieces of a composite keep the form, RESET leaves the empty buffer, and a primitive on its own
leaves the buffer alone. -/
theorem bufferFormKept : Obligations.BufferFormKept := by
  intro i s t hs h
  have hreset : ∀ a : State, Memory.wf a.buf → Memory.wf a.resetKeeping.buf := fun _ _ => List.Pairwise.nil
  have hown : ∀ (i : Instr) (body : State → Except FaultReason State) (a b : State), ownBody i = some body →
      Memory.wf a.buf → body a = .ok b → Memory.wf b.buf :=
    fun _ _ _ _ hb ha h => by rwa [ownBody_buf hb h]
  exact keptByPieces_bufferForm.exec hreset hown hs h

/-! ### MemRead and MemWrite -/

theorem memRead_of_beyond {s : State} {k : Nat} (h : s.params.n ≤ k) : memRead k s = .error .index := if_pos h

theorem memWrite_of_beyond {s : State} {k : Nat} (h : s.params.n ≤ k) (v : Sample) :
    memWrite k v s = .error .index := if_pos h

theorem memRead_of_unwritten {s : State} {k : Nat} (hk : k < s.params.n) (h : Memory.read s.buf k = none) :
    memRead k s = .error .unwrittenRead := by
  simp only [memRead, if_neg (Nat.not_le.2 hk), h]

/-- Settles O24: the bound N is tested first; below it MemRead answers what the buffer holds, and MemWrite writes there
and nowhere else. -/
theorem bufferPrimitives : Obligations.BufferPrimitives := by
  refine fun s k v => ⟨fun hk => ⟨memRead_of_beyond hk, memWrite_of_beyond hk v⟩, memRead_of_unwritten,
    fun hk x hx => memRead_ok_iff.2 ⟨hk, hx⟩, fun hk => ?_⟩
  exact ⟨_, memWrite_ok_iff.2 ⟨hk, rfl⟩, rfl, Memory.read_write_same _ k v,
    fun _ hj => Memory.read_write_other _ v hj⟩

end Sys2Proof.Machine
end

section
/-! PROOF. HOST_SEND below RX_DEPTH and on overflow (20_memory.md R63, 43_peripheral_interface.md R172). -/

namespace Sys2Proof.Machine

theorem State.receive_of_room {s : State} (h : s.rxq.length < s.params.rxDepth) (d : Bool) (b : Byte) :
    s.receive d b = { s with rxq := s.rxq ++ [b] } := if_pos h

theorem State.receive_of_full {s : State} (h : s.params.rxDepth ≤ s.rxq.length) (d : Bool) (b : Byte) :
    s.receive d b = if d = true then { s with rxq := s.rxq.tail ++ [b] } else s := if_neg (Nat.not_lt.2 h)

theorem State.hostSends_of_room {s : State} (h : s.rxq.length < s.params.rxDepth) (b : Byte) :
    s.hostSends b = { s with rxq := s.rxq ++ [b] } := (if_pos h).trans (State.receive_of_room h false b)

/-- On overflow a free value names which of the two outcomes comes (log 4). -/
theorem State.hostSends_of_full {s : State} (h : s.params.rxDepth ≤ s.rxq.length) (b : Byte) :
    s.hostSends b = { s.receive (Config.freeDropOldest s.draws) b with draws := s.draws + 1 } :=
  if_neg (Nat.not_lt.2 h)

/-- HOST_SEND is performed wherever FAULT = 0. -/
theorem exec_hostSend {s : State} (hf : s.fault = none) (b : Byte) : exec (.hostSend b) s = .next (s.hostSends b) :=
  other_next_iff (o := .hostSend b).2 ⟨hf, rfl⟩

/-- On overflow the machine may take either outcome (R172). -/
theorem admits_hostSend_of_full {s : State} (hf : s.fault = none) (h : s.params.rxDepth ≤ s.rxq.length) (b : Byte)
    (d : Bool) : Admits s (.hostSend b) (s.receive d b) := .inr ⟨b, d, rfl, hf, h, rfl⟩

/-- Settles O54: a queue with room takes the byte; on a full one the free value picks an outcome, and the transition
relation admits both. -/
theorem hostSendResult : Obligations.HostSendResult := by
  refine ⟨fun _ => rfl, fun s b hf => ⟨fun hroom => ?_, fun hfull => ⟨?_, ?_, ?_⟩⟩⟩
  · rw [exec_hostSend hf, State.hostSends_of_room hroom]
  · rw [exec_hostSend hf, State.hostSends_of_full hfull, State.receive_of_full hfull]
    cases Config.freeDropOldest s.draws with
    | false => exact .inl rfl
    | true => exact .inr rfl
  · simpa [State.receive_of_full hfull] using admits_hostSend_of_full hf hfull b false
  · simpa [State.receive_of_full hfull] using admits_hostSend_of_full hf hfull b true

end Sys2Proof.Machine
end

section
/-! PROOF. The trace decoder both ways (30_encoding.md R76 to R79): which opids it knows, what it accepts and what it
refuses, and the words written out from the rules (R81). -/

namespace Sys2Proof

/-! ### The opcode map by its opids -/

/-- The opids of the twenty prims (R76). -/
abbrev PrimOpid (op : Opid) : Prop :=
  0x30 ≤ op.toNat ∧ op.toNat ≤ 0x32 ∨ 0x40 ≤ op.toNat ∧ op.toNat ≤ 0x46 ∨ 0x50 ≤ op.toNat ∧ op.toNat ≤ 0x59

/-- The opids in no row of the table (R76, R79). -/
abbrev UnassignedOpid (op : Opid) : Prop :=
  0x0C ≤ op.toNat ∧ op.toNat ≤ 0x0F ∨ 0x12 ≤ op.toNat ∧ op.toNat ≤ 0x1F ∨ 0x23 ≤ op.toNat ∧ op.toNat ≤ 0x2F ∨
    0x33 ≤ op.toNat ∧ op.toNat ≤ 0x3F ∨ 0x47 ≤ op.toNat ∧ op.toNat ≤ 0x4F ∨ 0x5A ≤ op.toNat

theorem opOf_eq_none_iff {op : Opid} {x : Sample} : opOf op x = none ↔ UnassignedOpid op := by
  unfold opOf
  split
  case h_38 =>
    simp only [UnassignedOpid, true_iff, imp_false] at *
    omega
  all_goals next hop => simp [hop]

theorem opOf_hostSend (x : Sample) : opOf 0x20#8 x = some (.hostSend (x.extractLsb' 0 8)) := rfl

theorem opOf_adcComplete (x : Sample) : opOf 0x21#8 x = some (.adcComplete x) := rfl

theorem primOpid_of_cls {i : Instr} (h : i.cls = .prim) : PrimOpid i.opid := by
  cases i with
  | tick | fill | send | signalTrigger | signalCmdS | signalCmdO | tacTrigger | tacCmdS | tacCmdO | clearTrigger
  | startConversion | isConversionDone | readConversionResult | sendByte _ | receivedByteAvailable | readByte
  | setIndicator _ | flushRx | onEdgeInterrupt | onByteReceivedInterrupt => simp [PrimOpid, Instr.opid]
  | _ => exact nomatch h

/-- A trace holds operations of class reset and step alone (R78). -/
theorem schedulable_iff_cls {i : Instr} : i.schedulable = true ↔ i.cls ≠ .prim ∧ i.cls ≠ .hostByte := by
  unfold Instr.schedulable
  cases i.cls <;> simp

/-- The opids of the operations a trace may hold end below the first prim's (R76, R78). -/
theorem opid_lt_of_schedulable {i : Instr} (h : i.schedulable = true) : i.opid.toNat < 0x30 := by
  obtain ⟨m, rfl⟩ | ⟨o, rfl⟩ | rfl := Machine.schedulable_cases h
  · cases m <;> decide
  · cases o <;> simp [Machine.OtherStep.toInstr, Instr.opid]
  · decide

theorem asCoded_of_schedulable {i : Instr} (h : i.schedulable = true) : i.asCoded = i := by
  cases i with
  | sendByte _ | setIndicator _ => exact nomatch h
  | _ => rfl

/-! ### The operand check -/

/-- Every operation but HOST_SEND and ADC_COMPLETE has no operand (R77, R79). -/
theorem checkOperand_of_no_operand {i : Instr} (hhost : ∀ b, i ≠ .hostSend b) (hadc : ∀ v, i ≠ .adcComplete v)
    (bits : Nat) (x : Sample) :
    checkOperand bits i x = if x = 0#16 then .ok i else .error .nonzeroOperand := by
  cases i with
  | hostSend b => exact absurd rfl (hhost b)
  | adcComplete v => exact absurd rfl (hadc v)
  | _ => rfl

/-- The check accepts the operand field the encoder writes. -/
theorem checkOperand_operandField {bits : Nat} {i : Instr} (h : i.wellFormed bits = true) :
    checkOperand bits i i.operandField = .ok i := by
  cases i with
  | hostSend b => exact if_pos (highByte_setWidth b)
  | adcComplete v => exact if_pos (of_decide_eq_true h)
  | _ => rfl

/-- Where the check accepts, the operation holds the whole operand, and is well formed. -/
theorem operandField_of_checkOperand {bits : Nat} {op : Opid} {x : Sample} {i : Instr} (hop : opOf op x = some i)
    (hck : checkOperand bits i x = .ok i) : i.operandField = x ∧ i.wellFormed bits = true := by
  obtain ⟨hopid, hcls⟩ := opOf_some hop
  cases i with
  | hostSend b =>
    obtain rfl : 0x20#8 = op := hopid
    have hhigh : x.extractLsb' 8 8 = 0#8 := by simpa [checkOperand] using hck
    obtain rfl := Instr.hostSend.inj (Option.some.inj hop)
    exact ⟨setWidth_lowByte_of_highByte hhigh, rfl⟩
  | adcComplete v =>
    obtain rfl : 0x21#8 = op := hopid
    have hrange : x.toNat < 2 ^ bits := by simpa [checkOperand] using hck
    obtain rfl := Instr.adcComplete.inj (Option.some.inj hop)
    exact ⟨rfl, decide_eq_true hrange⟩
  | hbStart | hbCont | hbOther _ => exact absurd rfl hcls
  | _ =>
    have hzero : x = 0#16 := by simpa [checkOperand] using hck
    exact ⟨hzero.symm, rfl⟩

/-! ### The trace decoder -/

theorem decodeTrace_of_opOf_none {op : Opid} {x : Sample} (bits : Nat) (h : opOf op x = none) :
    decodeTrace bits (packWord op x) = .error .noSuchOperation := by
  simp only [decodeTrace, wordOpid_packWord, wordOperand_packWord, h]

theorem decodeTrace_of_opOf_some {op : Opid} {x : Sample} {i : Instr} (bits : Nat) (h : opOf op x = some i) :
    decodeTrace bits (packWord op x) =
      if i.schedulable = true then checkOperand bits i x else .error .primNotSchedulable := by
  simp only [decodeTrace, wordOpid_packWord, wordOperand_packWord, h]

/-- What the trace decoder accepts, the opcode map names, and the operand check passes. -/
theorem decodeTrace_ok {bits : Nat} {w : TraceWord} {i : Instr} (h : decodeTrace bits w = .ok i) :
    opOf (wordOpid w) (wordOperand w) = some i ∧ checkOperand bits i (wordOperand w) = .ok i := by
  unfold decodeTrace at h
  split at h
  · exact nomatch h
  · next j hj =>
    split at h
    · obtain rfl := Machine.checkOperand_ok h
      exact ⟨hj, h⟩
    · exact nomatch h

/-- Settles O2: the opcode map reads the operation back from the word's two fields, and its own operand passes the
check. -/
theorem traceWordRoundTrip : Obligations.TraceWordRoundTrip := by
  intro bits i hs hw
  have hop : opOf i.opid i.operandField = some i := by
    rw [opOf_opid i (schedulable_iff_cls.1 hs).2, asCoded_of_schedulable hs]
  rw [encodeWord, decodeTrace_of_opOf_some bits hop, if_pos hs, checkOperand_operandField hw]

/-- Settles O3: the accepted operation has the word's opid and the word's operand, and a word is its two fields. -/
theorem traceDecoderAcceptsOnlyItsWords : Obligations.TraceDecoderAcceptsOnlyItsWords := by
  intro bits w i h
  obtain ⟨hop, hck⟩ := decodeTrace_ok h
  obtain ⟨hfield, hwf⟩ := operandField_of_checkOperand hop hck
  refine ⟨Machine.decodeTrace_schedulable h, hwf, ?_⟩
  rw [encodeWord, (opOf_some hop).1, hfield, packWord_fields]

/-- Settles O4: a prim's opid is assigned, and no operation a trace may hold has it; the operand is not looked at. -/
theorem primWordsRefused : Obligations.PrimWordsRefused := by
  refine ⟨fun bits op x hprim => ?_, fun i => primOpid_of_cls⟩
  cases hop : opOf op x with
  | none => have := opOf_eq_none_iff.1 hop; omega
  | some i =>
    rw [decodeTrace_of_opOf_some bits hop, if_neg]
    intro hs
    have hlt := opid_lt_of_schedulable hs
    rw [(opOf_some hop).1] at hlt
    omega

/-- A word of an operation without operand, its operand field not 0. -/
theorem decodeTrace_of_nonzeroOperand {op : Opid} {x : Sample} (bits : Nat)
    (hop : op.toNat ≤ 0x0B ∨ op = 0x10#8 ∨ op = 0x11#8 ∨ op = 0x22#8) (hx : x ≠ 0#16) :
    decodeTrace bits (packWord op x) = .error .nonzeroOperand := by
  have hnat : op.toNat ≤ 0x0B ∨ op.toNat = 0x10 ∨ op.toNat = 0x11 ∨ op.toNat = 0x22 :=
    hop.imp_right (Or.imp (congrArg _) (Or.imp (congrArg _) (congrArg _)))
  cases hi : opOf op x with
  | none => have := opOf_eq_none_iff.1 hi; omega
  | some i =>
    obtain ⟨rfl, hcls⟩ := opOf_some hi
    have hprim : i.cls ≠ .prim := fun h => by have := primOpid_of_cls h; omega
    have hhost : ∀ b, i ≠ .hostSend b := by rintro b rfl; simp [Instr.opid] at hnat
    have hadc : ∀ v, i ≠ .adcComplete v := by rintro v rfl; simp [Instr.opid] at hnat
    rw [decodeTrace_of_opOf_some bits hi, if_pos (schedulable_iff_cls.2 ⟨hprim, hcls⟩),
      checkOperand_of_no_operand hhost hadc, if_neg hx]

/-- Settles O5: the opcode map is not defined on an unassigned opid; elsewhere the operand check refuses. -/
theorem illegalWordsRefused : Obligations.IllegalWordsRefused := by
  refine fun bits op x => ⟨fun hop => ?_, decodeTrace_of_nonzeroOperand bits, ?_, ?_⟩
  · exact decodeTrace_of_opOf_none bits (opOf_eq_none_iff.2 hop)
  · rintro rfl hhigh
    exact (decodeTrace_of_opOf_some bits (opOf_hostSend x)).trans (if_neg hhigh)
  · rintro rfl hrange
    exact (decodeTrace_of_opOf_some bits (opOf_adcComplete x)).trans (if_neg (Nat.not_lt.2 hrange))

/-- Settles O1: the decoder evaluated on each word. -/
theorem specWordsDecode : Obligations.SpecWordsDecode := by
  unfold Obligations.SpecWordsDecode
  decide

/-- Settles O7: the expansions evaluated, each operand kept as it is. -/
theorem pseudoOpsAssemble : Obligations.PseudoOpsAssemble :=
  ⟨fun _ => rfl, fun _ => rfl, rfl, rfl, rfl⟩

end Sys2Proof
end

section
/-! PROOF. What a decoded word or host byte does when the machine takes it: step on a trace word (30_encoding.md R77), a
conversion's result (43_peripheral_interface.md R173), the host bytes (30_encoding.md R73, 41_event_capture.md R133), and
the indicator and the registrations (R168, R170, R171). -/

namespace Sys2Proof.Machine

theorem step_of_decodeTrace_ok {s : State} {w : TraceWord} {rest : List TraceWord} {i : Instr}
    (hp : s.params.Admitted) (ht : s.trace = w :: rest) (hd : decodeTrace s.params.adcBits w = .ok i) :
    step s = exec i { s with trace := rest } := by
  simp only [step, fetch, if_pos hp, ht, hd]

/-- Settles O8: fetch takes the word off the trace and hands on the operation decoded from it. -/
theorem stepRunsTheDecodedWord : Obligations.StepRunsTheDecodedWord := fun _ _ _ _ => step_of_decodeTrace_ok

theorem inAdcRange_iff {p : Config.Params} {v : Sample} : inAdcRange p v = true ↔ v.toNat < 2 ^ p.adcBits :=
  decide_eq_true_iff

/-- Settles O55: the range is tested first, then the guard ADC_BUSY. -/
theorem adcCompleteResult : Obligations.AdcCompleteResult := by
  refine ⟨fun _ => rfl, fun s v => ⟨fun hv => ?_, fun _ hv hb => ?_, fun hf hv hb => ?_⟩⟩
  · exact if_neg (mt inAdcRange_iff.1 (Nat.not_lt.2 hv))
  · have hperf := performedExactlyWhenEnabled (.adcComplete v) s rfl (decide_eq_true hv)
    rwa [if_neg (by simp [enabled, hb])] at hperf
  · exact other_next_iff (o := .adcComplete v).2 ⟨hf, inAdcRange_iff.2 hv, hb, rfl⟩

/-! ### Host bytes -/

/-- An operation with no guard of its own and no fault of its own takes its effect wherever FAULT = 0. -/
theorem perform_always (op : Opid) (f : State → State) {s : State} (hf : s.fault = none) :
    perform op true (fun s => .ok (f s)) s = .next (f s) := perform_of_guard hf rfl

/-- What RX_ISR does with a byte, as one update of the two command cells (R73). -/
theorem State.takeHostByte_eq (s : State) (b : Byte) :
    s.takeHostByte b =
      { s with
        cmdS := if b = 0x73#8 then true else s.cmdS
        cmdO := if b = 0x6F#8 then true else s.cmdO } := by
  unfold State.takeHostByte
  split
  · next h => subst h; rfl
  · split
    · next h => subst h; rfl
    · rfl

theorem exec_hbStart {s : State} (hf : s.fault = none) : exec .hbStart s = .next (s.takeHostByte startByte) :=
  perform_always _ (State.takeHostByte · startByte) hf

theorem exec_hbCont {s : State} (hf : s.fault = none) : exec .hbCont s = .next (s.takeHostByte contByte) :=
  perform_always _ (State.takeHostByte · contByte) hf

theorem exec_hbOther {s : State} (hf : s.fault = none) (b : Byte) : exec (.hbOther b) s = .next s :=
  perform_always _ id hf

/-- The row a host byte decodes to does what RX_ISR does with that byte (R73, R133). -/
theorem exec_decodeHostByte {s : State} (hf : s.fault = none) (b : Byte) :
    exec (decodeHostByte b) s = .next (s.takeHostByte b) := by
  unfold decodeHostByte
  split
  · next h => subst h; exact exec_hbStart hf
  · next hs =>
    split
    · next h => subst h; exact exec_hbCont hf
    · next ho =>
      rw [State.takeHostByte, if_neg hs, if_neg ho]
      exact exec_hbOther hf b

/-- RX_ISR takes the byte at the head of RXQ off the queue (R133). -/
theorem exec_rxIsr {s : State} {b : Byte} {rest : List Byte} (hf : s.fault = none) (hr : s.rxq = b :: rest) :
    exec .rxIsr s = .next (State.takeHostByte { s with rxq := rest } b) :=
  other_next_iff (o := .rxIsr).2 ⟨hf, b, rest, hr, rfl⟩

/-- Settles O6: RX_ISR and the decoded row both take the byte on the queue without it. -/
theorem rxIsrRunsTheHostByte : Obligations.RxIsrRunsTheHostByte := by
  refine ⟨fun _ => rfl, fun s b rest hf hr => ⟨?_, ?_⟩⟩
  · rw [exec_rxIsr hf hr, exec_decodeHostByte (s := { s with rxq := rest }) hf]
  · rw [exec_rxIsr hf hr, State.takeHostByte_eq]

/-- Settles O38: each class of host byte is performed under FAULT = 0 alone. -/
theorem hostByteEffects : Obligations.HostByteEffects := fun _ b hf =>
  ⟨exec_hbStart hf, exec_hbCont hf, fun _ => exec_hbOther hf b⟩

/-- Settles O53: the indicator takes the code of each pattern (R72); a registration's body is the state itself. -/
theorem indicatorAndRegistrations : Obligations.IndicatorAndRegistrations := fun _ hf =>
  ⟨perform_always _ (State.setIndicator · .idle) hf, perform_always _ (State.setIndicator · .sampling) hf,
    perform_always _ (State.setIndicator · .transfer) hf, perform_always _ id hf, perform_always _ id hf⟩

end Sys2Proof.Machine
end

section
/-! PROOF. The seven MAIN steps of the sequencer, each from its own control point (40_state_machine.md R101 to R108):
its whole next state, and stuck elsewhere (R80); which guards the signal cells leave alone (R111); and which steps write
ST (R110). -/

namespace Sys2Proof.Machine

/-- With a fault taken no MAIN step is performed (R14). -/
theorem exec_main_of_fault {m : MainStep} {s : State} (hf : s.fault ≠ none) : StuckAt m.toInstr s := by
  rw [StuckAt, exec_main, performMain, if_neg (by simpa using hf)]

/-- A MAIN step is performed only under what its control point, and what it waits for there, say (R80, R112). -/
theorem onlyUnder_main {m : MainStep} {guard : State → Prop}
    (hg : ∀ s : State, m.control = (s.st, s.ph) → m.ready s = true → guard s) : OnlyUnder m.toInstr guard :=
  fun s => ⟨exec_main_of_fault, fun hf hl hn => exec_main_stuck hf hl fun ⟨hc, hr⟩ => hn (hg s hc hr)⟩

section
variable {m : MainStep} {s : State} (hf : s.fault = none) (hst : s.st = m.control.1) (hph : s.ph = m.control.2)
include hf hst hph

/-- A MAIN step at its control point, ready there, whose body raises no fault. -/
theorem exec_main_of_ok {t : State} (hr : m.ready s = true) (hb : m.body s = .ok t) : exec m.toInstr s = .next t := by
  rw [exec_main_of_ready hf (control_eq_iff.2 ⟨hst, hph⟩) hr, hb, atomically_ok]

/-- A MAIN step at its control point, ready there, whose body raises a fault (R201). -/
theorem exec_main_of_error {e : FaultReason} (hr : m.ready s = true) (hb : m.body s = .error e) :
    FaultsWith m.toInstr s e := by
  rw [FaultsWith, exec_main_of_ready hf (control_eq_iff.2 ⟨hst, hph⟩) hr, hb]
  rfl

end

/-- Settles O12: the guard of a MAIN step reads no signal cell, and a step at its control point that is ready is
performed. -/
theorem signalsNeverDisableMain : Obligations.SignalsNeverDisableMain := by
  refine ⟨fun m s a b c => by cases m <;> rfl, fun m s hf hc hdone hfree => ?_⟩
  have hr : m.ready s = true := by
    cases m with
    | convCollect => exact hdone rfl
    | txLo => simp [MainStep.ready, hfree (.inl rfl)]
    | txHi => simp [MainStep.ready, hfree (.inr rfl)]
    | _ => rfl
  rw [exec_main_of_ready hf hc.symm hr]
  exact atomically_eq_next _ s (m.body s)

/-! ### The next state of each step -/

/-- Clearing a cell that is 0 changes nothing (R124). -/
theorem State.clearCell_of_clear {c : SignalCell} {s : State} (h : s.cell c = false) : s.clearCell c = s := by
  cases s
  cases c <;> cases h <;> rfl

/-- Where a poll ends the episode: the top of IDLE, entry pending (R106, R108). -/
def State.endEpisode (s : State) : State := { s.goto ST.idle PH.top with entry := true }

theorem State.endEpisode_clearCell {c : SignalCell} {s : State} (h : s.cell c = false) :
    (s.clearCell c).endEpisode = s.endEpisode := by
  rw [State.clearCell_of_clear h]

section
variable {s : State} (hf : s.fault = none)
include hf

theorem exec_idleTop (hst : s.st = ST.idle) (hph : s.ph = PH.top) :
    exec .idleTop s =
      .next (if s.entry = true then
        { s with ind := some 0b00#2, batch := 0, trig := false, rxq := [], entry := false, ph := PH.idleTest }
      else { s with ind := some 0b00#2, ph := PH.idleTest }) :=
  (exec_main_of_ok (m := .idleTop) hf hst hph rfl rfl).trans (congrArg _ (idleTopBody_ok rfl))

theorem exec_idleTest (hst : s.st = ST.idle) (hph : s.ph = PH.idleTest) :
    exec .idleTest s = .next { s with trig := false, ph := if s.trig = true then PH.debounce else PH.top } :=
  exec_main_of_ok (m := .idleTest) hf hst hph rfl rfl

theorem exec_debounceDone (hst : s.st = ST.idle) (hph : s.ph = PH.debounce) :
    exec .debounceDone s = .next { s with trig := false, st := ST.sampling, ph := PH.top } :=
  exec_main_of_ok (m := .debounceDone) hf hst hph rfl rfl

theorem exec_sampTop (hst : s.st = ST.sampling) (hph : s.ph = PH.top) :
    exec .sampTop s = .next { s with ind := some 0b01#2, wr := 0, ph := PH.convStart } :=
  exec_main_of_ok (m := .sampTop) hf hst hph rfl rfl

theorem exec_sampPoll (hst : s.st = ST.sampling) (hph : s.ph = PH.sampPoll) :
    exec .sampPoll s =
      .next (if s.wr ≠ s.params.n then { s with fault := some ⟨.bufNotFull, 0x05#8⟩ }
      else if s.cmdS = true then { s with cmdS := false, st := ST.transfer, ph := PH.top }
      else { s with st := ST.idle, ph := PH.top, entry := true }) := by
  by_cases hw : s.wr ≠ s.params.n
  · rw [if_pos hw]
    exact exec_main_of_error (m := .sampPoll) hf hst hph rfl (if_pos hw)
  rw [if_neg hw]
  refine exec_main_of_ok (m := .sampPoll) hf hst hph rfl ((if_neg hw).trans ?_)
  by_cases hc : s.cmdS = true
  · exact (if_pos hc).trans (congrArg _ (if_pos hc).symm)
  · rw [if_neg hc]
    exact (if_neg hc).trans
      (congrArg Except.ok (State.endEpisode_clearCell (c := .cmdS) (Bool.eq_false_of_not_eq_true hc)))

theorem exec_xferTop (hst : s.st = ST.transfer) (hph : s.ph = PH.top) :
    exec .xferTop s =
      .next (if s.wr ≠ s.params.n then { s with fault := some ⟨.bufNotFull, 0x06#8⟩ }
      else if s.params.m ≤ s.batch then { s with fault := some ⟨.batch, 0x06#8⟩ }
      else { s with ind := some 0b10#2, rd := 0, ph := PH.txLo }) := by
  rw [show exec .xferTop s = _ from exec_main_of_ready (m := .xferTop) hf (control_eq_iff.2 ⟨hst, hph⟩) rfl]
  simp only [MainStep.body, xferTopBody]
  split_ifs <;> rfl

theorem exec_xferPoll (hst : s.st = ST.transfer) (hph : s.ph = PH.xferPoll) :
    exec .xferPoll s =
      .next (if s.params.m ≤ s.batch then { s with fault := some ⟨.batch, 0x07#8⟩ }
      else if s.cmdO = false then { s with batch := s.batch + 1, st := ST.idle, ph := PH.top, entry := true }
      else if s.batch + 1 = s.params.m then
        { s with batch := s.batch + 1, cmdO := false, st := ST.idle, ph := PH.top, entry := true }
      else { s with batch := s.batch + 1, cmdO := false, st := ST.sampling, ph := PH.top }) := by
  by_cases hb : s.params.m ≤ s.batch
  · rw [if_pos hb]
    exact exec_main_of_error (m := .xferPoll) hf hst hph rfl (if_pos hb)
  rw [if_neg hb]
  refine exec_main_of_ok (m := .xferPoll) hf hst hph rfl ((if_neg hb).trans ?_)
  rw [increment_batch (Nat.not_le.1 hb)]
  by_cases hc : s.cmdO = true
  · rw [if_neg (show ¬ s.cmdO = false by simp [hc])]
    refine (if_neg (show ¬ (!s.cmdO) = true by simp [hc])).trans ?_
    by_cases hm : s.batch + 1 = s.params.m
    · exact (if_pos hm).trans (congrArg _ (if_pos hm).symm)
    · exact (if_neg hm).trans (congrArg _ (if_neg hm).symm)
  · have hc : s.cmdO = false := Bool.eq_false_of_not_eq_true hc
    rw [if_pos hc]
    exact (if_pos (show (!s.cmdO) = true by simp [hc])).trans
      (congrArg Except.ok (State.endEpisode_clearCell (c := .cmdO) (s := { s with batch := s.batch + 1 }) hc))

end

/-- Settles O25: the entry actions are performed under ENTRY = 1 alone. -/
theorem idleTopResult : Obligations.IdleTopResult :=
  ⟨rfl, onlyUnder_main (m := .idleTop) fun _ hc _ => control_eq_iff.1 hc, fun _ => exec_idleTop⟩

/-- Settles O26: the branch and the clear use the one value read. -/
theorem idleTestResult : Obligations.IdleTestResult :=
  ⟨rfl, onlyUnder_main (m := .idleTest) fun _ hc _ => control_eq_iff.1 hc, fun _ => exec_idleTest⟩

/-- Settles O27: the body has one branch and no fault. -/
theorem debounceDoneResult : Obligations.DebounceDoneResult :=
  ⟨rfl, onlyUnder_main (m := .debounceDone) fun _ hc _ => control_eq_iff.1 hc, fun _ => exec_debounceDone⟩

/-- Settles O28: the body has one branch, no fault, and leaves BUF alone. -/
theorem sampTopResult : Obligations.SampTopResult :=
  ⟨rfl, onlyUnder_main (m := .sampTop) fun _ hc _ => control_eq_iff.1 hc, fun _ => exec_sampTop⟩

/-- Settles O29: the fault is tested first, then the latch, whose clear changes nothing on the timeout branch. -/
theorem sampPollResult : Obligations.SampPollResult :=
  ⟨rfl, onlyUnder_main (m := .sampPoll) fun _ hc _ => control_eq_iff.1 hc, fun _ => exec_sampPoll⟩

/-- Settles O30: the two faults are tested in order, before anything is written. -/
theorem xferTopResult : Obligations.XferTopResult :=
  ⟨rfl, onlyUnder_main (m := .xferTop) fun _ hc _ => control_eq_iff.1 hc, fun _ => exec_xferTop⟩

/-- Settles O31: below M the increment does not wrap, and the latch's clear changes nothing on the abort branch. -/
theorem xferPollResult : Obligations.XferPollResult :=
  ⟨rfl, onlyUnder_main (m := .xferPoll) fun _ hc _ => control_eq_iff.1 hc, fun _ => exec_xferPoll⟩

/-- Settles O60: IDLE_TOP's entry branch, then TRIG_ISR's set, which IDLE_TEST finds. -/
theorem idleEntryWindow : Obligations.IdleEntryWindow := by
  intro s hf hst hph he
  refine ⟨_, (exec_idleTop hf hst hph).trans (congrArg _ (if_pos he)), rfl, rfl, rfl, rfl, rfl, ?_⟩
  exact ⟨_, _, other_next_iff (o := .trigIsr).2 ⟨hf, rfl⟩, exec_idleTest hf hst rfl, rfl⟩

/-! ### Who writes ST -/

/-- Of MAIN's bodies only those that end a tick write ST (R110). -/
theorem main_st {m : MainStep} {s t : State} (h : m.body s = .ok t) :
    t.st = s.st ∨ (m = .debounceDone ∨ m = .sampPoll ∨ m = .xferPoll) ∧ t.ph = PH.top := by
  cases m with
  | idleTop => obtain rfl := idleTopBody_ok h; split <;> exact .inl rfl
  | idleTest => obtain rfl := idleTestBody_ok h; exact .inl rfl
  | debounceDone => obtain rfl := Except.ok.inj h; exact .inr ⟨.inl rfl, rfl⟩
  | sampTop => obtain rfl := Except.ok.inj h; exact .inl rfl
  | convStart => obtain ⟨-, -, -, rfl⟩ := convStartBody_ok h; exact .inl rfl
  | convCollect => obtain ⟨-, -, rfl⟩ := convCollectBody_ok h; exact .inl rfl
  | sampPoll => obtain ⟨-, rfl⟩ := sampPollBody_ok h; split <;> exact .inr ⟨.inr (.inl rfl), rfl⟩
  | xferTop => obtain ⟨-, -, rfl⟩ := xferTopBody_ok h; exact .inl rfl
  | txLo => obtain ⟨-, -, v, -, rfl⟩ := txLoBody_ok h; exact .inl rfl
  | txHi => obtain ⟨-, -, v, -, rfl⟩ := txHiBody_ok h; exact .inl rfl
  | xferPoll => obtain ⟨-, rfl⟩ := xferPollBody_ok h; split <;> exact .inr ⟨.inr (.inr rfl), rfl⟩

/-- Settles O32: of MAIN's bodies three write ST, a model fault and the other agents leave it alone. -/
theorem stateWrittenOnlyAtTickEnd : Obligations.StateWrittenOnlyAtTickEnd := by
  intro i s t hi h hne
  obtain ⟨m, rfl⟩ | ⟨o, rfl⟩ | rfl := schedulable_cases hi
  · rw [exec_main] at h
    obtain ⟨-, ⟨-, rfl⟩ | ⟨-, -, hb | ⟨e, -, rfl⟩⟩⟩ := performMain_next h
    · exact absurd rfl hne
    · obtain hst | ⟨hm, hph⟩ := main_st hb
      · exact absurd hst hne
      · refine .inl ⟨?_, hph⟩
        obtain rfl | rfl | rfl := hm <;> simp [MainStep.toInstr]
    · exact absurd rfl hne
  · rw [exec_other] at h
    obtain ⟨-, hst, -⟩ := other_frame h
    exact absurd hst hne
  · exact .inr rfl

end Sys2Proof.Machine
end

section
/-! PROOF. What a FILL and a SEND keep and where they end (42_sampler_transmitter.md R140, R143): a property that their
own MAIN steps and the other agents keep, such as the invariant, or a latch that only a poll clears, holds all along; and
from one element to the next, each writes or passes on the element at its index and counts it. -/

namespace Sys2Proof.Machine

/-- A property that the MAIN steps ms, the other agents' steps and the count of free values keep. KeptByPieces asks for
every body of MAIN, away from its control point too, and for a model fault: the invariant outlives neither, and a latch
no poll. -/
structure KeptBy (ms : List MainStep) (P : State → Prop) : Prop where
  main : ∀ m ∈ ms, ∀ s t, P s → exec m.toInstr s = .next t → P t
  other : ∀ (o : OtherStep) (s t : State), P s → o.Effect s t → P t
  draw : ∀ (s : State) (d : Nat), P s → P { s with draws := d }

section
variable {ms : List MainStep} {P : State → Prop} (hP : KeptBy ms P)
include hP

theorem KeptBy.interfere {s : State} (hs : P s) : P (interfere s) :=
  interfere_keeps (fun o a b ha h => hP.other o a b ha (other_next h).2) hP.draw hs

theorem KeptBy.awaitConversion {s t : State} (hs : P s) (h : awaitConversion s = .next t) : P t := by
  unfold Machine.awaitConversion at h
  split_ifs at h with hd hb
  · exact Host.Outcome.next.inj h ▸ hs
  · obtain rfl := Host.Outcome.next.inj h
    obtain ⟨-, hb⟩ := Bool.and_eq_true_iff.1 hb
    exact hP.draw _ _ (hP.other (.adcComplete _) s _ hs ⟨inAdcRange_boundToAdc _ _, hb, rfl⟩)

theorem KeptBy.awaitTransmitter {m : MainStep} {s t : State} (hs : P s) (h : awaitTransmitter m s = .next t) : P t := by
  unfold Machine.awaitTransmitter at h
  split_ifs at h with hx ha
  · exact Host.Outcome.next.inj h ▸ hs
  · obtain rfl := Host.Outcome.next.inj h
    simp only [Bool.or_eq_true, Bool.not_eq_true', not_or, Bool.not_eq_false] at hx
    exact hP.other .txShift s _ hs ⟨hx.1, rfl⟩

end

section
variable {P : State → Prop}

theorem KeptBy.fillElement (hP : KeptBy [.convStart, .convCollect] P) {s t : State} (hs : P s)
    (h : fillElement s = .next t) : P t :=
  andThen_keeps (fun _ => hP.main .convStart (by decide) _ _ (hP.interfere hs))
    (fun _ _ ha => andThen_keeps (fun _ => hP.awaitConversion (hP.interfere ha))
      fun _ _ => hP.main .convCollect (by decide) _ _)
    h

theorem KeptBy.fillBody (hP : KeptBy [.convStart, .convCollect] P) {s t : State} (hs : P s)
    (h : fillBody s = .next t) : P t :=
  repeatTimes_keeps (fun _ _ => hP.fillElement) _ s t hs h

theorem KeptBy.sendElement (hP : KeptBy [.txLo, .txHi] P) {s t : State} (hs : P s) (h : sendElement s = .next t) :
    P t :=
  andThen_keeps
    (fun _ => andThen_keeps (fun _ => hP.awaitTransmitter (hP.interfere hs)) fun _ _ => hP.main .txLo (by decide) _ _)
    (fun _ _ ha => andThen_keeps (fun _ => hP.awaitTransmitter (hP.interfere ha))
      fun _ _ => hP.main .txHi (by decide) _ _)
    h

theorem KeptBy.sendBody (hP : KeptBy [.txLo, .txHi] P) {s t : State} (hs : P s) (h : sendBody s = .next t) : P t :=
  repeatTimes_keeps (fun _ _ => hP.sendElement) _ s t hs h

end

/-! ### The invariant and the signal cells -/

theorem MainStep.toInstr_schedulable (m : MainStep) : m.toInstr.schedulable = true := by cases m <;> rfl

theorem keptBy_runInvariant (ms : List MainStep) : KeptBy ms RunInvariant where
  main m _ _ _ hs h := exec_keeps_runInvariant hs m.toInstr_schedulable h
  other _ _ _ hs h := by
    obtain ⟨m, hm⟩ := runInvariant_iff.1 hs
    exact runInvariant_iff.2 ⟨m, other_keeps hm h⟩
  draw s d hs := hs.withSchedule s.trace d

/-- The cell a MAIN step may clear (R120). -/
def MainStep.clears : MainStep → Option SignalCell
  | .idleTop | .idleTest | .debounceDone => some .trig
  | .sampPoll => some .cmdS
  | .xferPoll => some .cmdO
  | .sampTop | .convStart | .convCollect | .xferTop | .txLo | .txHi => none

/-- MAIN's bodies write no other cell (R120). -/
theorem main_cell {m : MainStep} {c : SignalCell} {s t : State} (h : m.body s = .ok t) (hc : m.clears ≠ some c) :
    t.cell c = s.cell c := by
  cases m with
  | idleTop =>
    obtain rfl := idleTopBody_ok h
    cases c with
    | trig => exact absurd rfl hc
    | cmdS | cmdO => split <;> rfl
  | idleTest =>
    obtain rfl := idleTestBody_ok h
    cases c with
    | trig => exact absurd rfl hc
    | cmdS | cmdO => rfl
  | debounceDone =>
    obtain rfl := Except.ok.inj h
    cases c with
    | trig => exact absurd rfl hc
    | cmdS | cmdO => rfl
  | sampPoll =>
    obtain ⟨-, rfl⟩ := sampPollBody_ok h
    cases c with
    | cmdS => exact absurd rfl hc
    | trig | cmdO => split <;> rfl
  | xferPoll =>
    obtain ⟨-, rfl⟩ := xferPollBody_ok h
    cases c with
    | cmdO => exact absurd rfl hc
    | trig | cmdS => split <;> rfl
  | sampTop => obtain rfl := Except.ok.inj h; cases c <;> rfl
  | convStart => obtain ⟨-, -, -, rfl⟩ := convStartBody_ok h; cases c <;> rfl
  | convCollect => obtain ⟨-, -, rfl⟩ := convCollectBody_ok h; cases c <;> rfl
  | xferTop => obtain ⟨-, -, rfl⟩ := xferTopBody_ok h; cases c <;> rfl
  | txLo => obtain ⟨-, -, v, -, rfl⟩ := txLoBody_ok h; cases c <;> rfl
  | txHi => obtain ⟨-, -, v, -, rfl⟩ := txHiBody_ok h; cases c <;> rfl

/-- The other agents clear no cell (R120). -/
theorem other_cell {o : OtherStep} {c : SignalCell} {s t : State} (h : o.Effect s t) (hc : s.cell c = true) :
    t.cell c = true := by
  cases o with
  | trigIsr =>
    obtain rfl := h
    cases c with
    | trig => rfl
    | cmdS | cmdO => exact hc
  | rxIsr =>
    obtain ⟨b, rest, -, rfl⟩ := h
    rw [State.takeHostByte_eq]
    cases c with
    | trig => exact hc
    | cmdS | cmdO => exact (ite_eq_left_iff.2 fun _ => hc)
  | hostSend b => obtain rfl := h; cases c <;> simpa using hc
  | adcComplete v => obtain ⟨-, -, rfl⟩ := h; cases c <;> exact hc
  | txShift => obtain ⟨-, rfl⟩ := h; cases c <;> simpa using hc

/-- A cell that none of the MAIN steps ms clears stays set. -/
theorem keptBy_cell {ms : List MainStep} (c : SignalCell) (hms : ∀ m ∈ ms, m.clears ≠ some c) :
    KeptBy ms fun s => s.cell c = true where
  main m hm s t hs h := by
    rw [exec_main] at h
    obtain ⟨-, ⟨-, rfl⟩ | ⟨-, -, hb | ⟨e, -, rfl⟩⟩⟩ := performMain_next h
    · cases c <;> exact hs
    · exact (main_cell hb (hms m hm)).trans hs
    · cases c <;> exact hs
  other _ _ _ hs h := other_cell h hs
  draw _ _ hs := by cases c <;> exact hs

/-! ### From one element to the next -/

/-- What a fill and a send leave alone: the parameters, MAIN's registers of the episode, the indicator and the
schedule. -/
structure SameEpisode (s t : State) : Prop where
  params : t.params = s.params
  entry : t.entry = s.entry
  batch : t.batch = s.batch
  ind : t.ind = s.ind
  ret : t.ret = s.ret
  trace : t.trace = s.trace

theorem SameEpisode.refl (s : State) : SameEpisode s s := ⟨rfl, rfl, rfl, rfl, rfl, rfl⟩

theorem SameEpisode.trans {s t u : State} (h : SameEpisode s t) (h' : SameEpisode t u) : SameEpisode s u :=
  ⟨h'.params.trans h.params, h'.entry.trans h.entry, h'.batch.trans h.batch, h'.ind.trans h.ind, h'.ret.trans h.ret,
    h'.trace.trans h.trace⟩

/-- MAIN inside a fill, with k elements to come. -/
structure FillAt (k : Nat) (s : State) : Prop where
  noFault : s.fault = none
  st : s.st = ST.sampling
  ph : s.ph = if s.wr = s.params.n then PH.sampPoll else PH.convStart
  idle : s.adcBusy = false ∧ s.adcDone = false
  wr : s.wr + k = s.params.n

/-- All the rest of a fill can do: MAIN waits without end, which ADC_COMPLETES rules out; or the fill ends (R140). -/
theorem fill_cases (k : Nat) : ∀ s, FillAt k s →
    repeatTimes k fillElement s = conversionHang ∧ s.params.adcAnswer ≠ .assured ∨
      ∃ t, repeatTimes k fillElement s = .next t ∧ FillAt 0 t ∧ SameEpisode s t := by
  induction k with
  | zero => exact fun s hs => .inr ⟨s, rfl, hs, .refl s⟩
  | succ k ih =>
    intro s ⟨hf, hst, hph, ⟨hb, hd⟩, hw⟩
    rw [if_neg (by omega)] at hph
    obtain ⟨hhang, ha⟩ |
      ⟨-, a, v, hnext, -, -, awr, aph, -, ab, ad, ap, ast, aentry, abatch, -, aind, af, aret, atrace⟩ :=
      fillElement_cases hf hst hph (by omega) hb hd
    · exact .inl ⟨by rw [repeatTimes, hhang]; rfl, ha⟩
    · have hsame : SameEpisode s a := ⟨ap, aentry, abatch, aind, aret, atrace⟩
      have hat : FillAt k a := ⟨af, ast.trans hst, by rw [aph, awr, ap], ⟨ab, ad⟩, by rw [awr, ap]; omega⟩
      rw [repeatTimes, andThen_of_next hnext af]
      obtain ⟨hhang, ha⟩ | ⟨t, ht, hend, hsame'⟩ := ih a hat
      · exact .inl ⟨hhang, ap ▸ ha⟩
      · exact .inr ⟨t, ht, hend, hsame.trans hsame'⟩

/-- MAIN inside a send, with k elements to come. -/
structure SendAt (k : Nat) (s : State) : Prop where
  noFault : s.fault = none
  st : s.st = ST.transfer
  ph : s.ph = if s.rd = s.params.n then PH.xferPoll else PH.txLo
  full : s.wr = s.params.n ∧ s.Filled s.params.n
  hold : HoldWritten s
  rd : s.rd + k = s.params.n

/-- All the rest of a send can do: MAIN waits without end at TX_LO or TX_HI, which TX_FAIR rules out; or the send ends,
the bytes of the elements from RD on passed to the transmitter in order (R64, R143). -/
theorem send_cases (k : Nat) : ∀ s, SendAt k s →
    (∃ m, (m = .txLo ∨ m = .txHi) ∧ repeatTimes k sendElement s = transmitHang m ∧ s.params.txAnswer ≠ .assured) ∨
      ∃ t, repeatTimes k sendElement s = .next t ∧ SendAt 0 t ∧ SameEpisode s t ∧ t.buf = s.buf ∧
        t.sentBytes = s.sentBytes ++ batchBytes ((List.range' s.rd k).filterMap (Memory.read s.buf)) := by
  induction k with
  | zero => exact fun s hs => .inr ⟨s, rfl, hs, .refl s, rfl, by simp [batchBytes]⟩
  | succ k ih =>
    intro s ⟨hf, hst, hph, ⟨hw, hfill⟩, hh, hr⟩
    rw [if_neg (by omega)] at hph
    have hlt : s.rd < s.params.n := by omega
    obtain ⟨v, hv⟩ := Option.isSome_iff_exists.1 (hfill s.rd hlt)
    obtain ⟨m, hm, -, hhang, ha⟩ |
      ⟨-, a, hnext, asent, ah, ard, aph, ap, ast, aentry, abatch, awr, aind, abuf, af, aret, atrace⟩ :=
      sendElement_cases hf hst hph hw hlt hv hh
    · exact .inl ⟨m, hm, by rw [repeatTimes, hhang]; rfl, ha⟩
    · have hsame : SameEpisode s a := ⟨ap, aentry, abatch, aind, aret, atrace⟩
      have hfull : a.wr = a.params.n ∧ a.Filled a.params.n :=
        ⟨by rw [awr, ap, hw], by rw [State.Filled, abuf, ap]; exact hfill⟩
      have hat : SendAt k a :=
        ⟨af, ast.trans hst, by rw [aph, ard, ap], hfull, ah, by rw [ard, ap]; omega⟩
      rw [repeatTimes, andThen_of_next hnext af]
      obtain ⟨m, hm, hhang, ha⟩ | ⟨t, ht, hend, hsame', tbuf, tsent⟩ := ih a hat
      · exact .inl ⟨m, hm, hhang, ap ▸ ha⟩
      · refine .inr ⟨t, ht, hend, hsame.trans hsame', tbuf.trans abuf, ?_⟩
        rw [tsent, asent, abuf, ard, List.range'_succ, List.filterMap_cons_some hv]
        simp [batchBytes]

end Sys2Proof.Machine
end

section
/-! PROOF. One whole tick from PH_TOP, by ST at its start (40_state_machine.md R100, R109): each MAIN step takes the
invariant from its control point to the next, any steps of the other agents in between keep it, and the poll that ends
the tick picks the row. -/

namespace Sys2Proof.Machine

/-- The invariant at a control point does not speak of what the other agents may change there (R209). -/
theorem InvariantAt.interfere {m : MainStep} {s : State} (h : InvariantAt m s) : InvariantAt m (interfere s) :=
  interfere_keeps (fun _ _ _ ha ho => other_keeps ha (other_next ho).2)
    (fun _ _ ha => ⟨ha.control, { ha.sound with }, ha.converter, ha.asserts⟩) h

theorem interfere_cell {c : SignalCell} {s : State} (h : s.cell c = true) : (interfere s).cell c = true :=
  (keptBy_cell (ms := []) c nofun).interfere h

theorem InvariantAt.runInvariant {m : MainStep} {s : State} (h : InvariantAt m s) : RunInvariant s :=
  runInvariant_iff.2 ⟨m, h⟩

/-- In the invariant MAIN's step, ready at its control point, is performed and its body raises no fault (R236). -/
theorem InvariantAt.exec_next {m : MainStep} {s : State} (h : InvariantAt m s) (hr : m.ready s = true) :
    ∃ t, m.body s = .ok t ∧ exec m.toInstr s = .next t := by
  have hexec := exec_main_of_ready h.sound.noFault h.control hr
  cases hb : m.body s with
  | ok t => exact ⟨t, rfl, by rw [hexec, hb, atomically_ok]⟩
  | error e => exact absurd hb (main_ne_error h hr e)

/-- The end of a tick: the invariant, at PH_TOP. -/
abbrev EndsTick (t : State) : Prop := RunInvariant t ∧ t.ph = PH.top

theorem InvariantAt.endsTick {m : MainStep} {t : State} (h : InvariantAt m t) (hm : m.control.2 = PH.top) :
    EndsTick t :=
  ⟨h.runInvariant, (control_eq_iff.1 h.control).2.trans hm⟩

/-! ### IDLE -/

/-- R109's rows of IDLE. -/
def IdleRow (s t : State) : Prop :=
  t.ind = some 0b00#2 ∧ t.entry = false ∧ t.batch = (if s.entry = true then 0 else s.batch) ∧ t.trig = false ∧
    (s.entry = false → s.trig = true → t.st = ST.sampling) ∧
    ∃ a, exec .idleTop s = .next a ∧ t.st = if (interfere a).trig = true then ST.sampling else ST.idle

/-- The rest of a tick of IDLE, from the state its test finds: to SAMPLING through the debounce, or IDLE again. -/
theorem idleTest_ends_tick {s : State} (h : InvariantAt .idleTest s) :
    ∃ t, (andThen (execIdleTest s) fun b => if b.ph = PH.debounce then execDebounceDone (interfere b) else .next b) =
        .next t ∧
      EndsTick t ∧ t.ind = s.ind ∧ t.entry = false ∧ t.batch = 0 ∧ t.trig = false ∧
      t.st = if s.trig = true then ST.sampling else ST.idle := by
  obtain ⟨a, hbody, hexec⟩ := h.exec_next rfl
  have ha := idleTest_keeps h hbody
  rw [andThen_of_next (r := execIdleTest s) hexec ha.sound.noFault]
  have haeq := idleTestBody_ok hbody
  by_cases ht : s.trig = true
  · rw [if_pos ht] at ha
    obtain ⟨t, htbody, htexec⟩ := ha.interfere.exec_next rfl
    have hend := debounceDone_keeps ha.interfere htbody
    obtain ⟨-, -, -, -, -, -, -, hind, -⟩ := interfere_frame ha.sound.noFault
    obtain ⟨hentry, hbatch⟩ := ha.interfere.asserts
    obtain rfl := Except.ok.inj htbody
    exact ⟨_, (if_pos (control_eq_iff.1 ha.control).2).trans htexec, hend.endsTick rfl,
      hind.trans (by rw [haeq]), hentry, hbatch, rfl, (if_pos ht).symm⟩
  · rw [if_neg ht] at ha
    obtain ⟨hst, hph⟩ := control_eq_iff.1 ha.control
    obtain ⟨hentry, hbatch⟩ := h.asserts
    refine ⟨a, if_neg (by rw [hph]; decide), ha.endsTick rfl, ?_, ?_, ?_, ?_, hst.trans (if_neg ht).symm⟩
    all_goals rw [haeq]
    · exact hentry
    · exact hbatch

theorem idleTick_next {s : State} (h : InvariantAt .idleTop s) :
    ∃ t, idleTick s = .next t ∧ EndsTick t ∧ IdleRow s t := by
  obtain ⟨a, hbody, hexec⟩ := h.exec_next rfl
  have ha := idleTop_keeps h hbody
  have hf := ha.sound.noFault
  obtain ⟨t, ht, hend, tind, tentry, tbatch, ttrig, tst⟩ := idleTest_ends_tick ha.interfere
  obtain ⟨-, -, -, -, -, -, -, hind, -⟩ := interfere_frame hf
  have haeq := idleTopBody_ok hbody
  refine ⟨t, (andThen_of_next (r := execIdleTop s) hexec hf).trans ht, hend, ?_, tentry, ?_, ttrig, fun he hs => ?_, a,
    hexec, tst⟩
  · rw [tind, hind, haeq]
    split <;> rfl
  · rw [tbatch]
    split
    · rfl
    · next he => exact (h.asserts (Bool.eq_false_of_not_eq_true he)).symm
  · have hatrig : a.trig = true := by rw [haeq, if_neg (by simp [he])]; exact hs
    exact tst.trans (if_pos (interfere_cell (c := .trig) hatrig))

/-! ### SAMPLING -/

/-- R109's rows of SAMPLING. -/
def SamplingRow (s t : State) : Prop :=
  t.ind = some 0b01#2 ∧ t.wr = s.params.n ∧ t.Filled s.params.n ∧ t.batch = s.batch ∧ t.cmdS = false ∧
    (s.cmdS = true → t.st = ST.transfer) ∧
    ∃ a b, exec .sampTop s = .next a ∧ exec .fill a = .next b ∧ t.buf = b.buf ∧
      if (interfere b).cmdS = true then t.st = ST.transfer ∧ t.entry = s.entry else t.st = ST.idle ∧ t.entry = true

/-- FILL, from where SAMP_TOP leaves MAIN, is its body. -/
theorem exec_fill_eq {s : State} (h : InvariantAt .convStart s) : exec .fill s = fillBody s := by
  obtain ⟨hst, hph⟩ := control_eq_iff.1 h.control
  exact if_pos (by simp [h.sound.noFault, hst, hph, MainStep.control])

/-- A fill keeps the invariant and the start-transfer latch; it waits without end or leaves MAIN at SAMP_POLL. -/
theorem fillBody_cases {s : State} (h : InvariantAt .convStart s) (hw : s.wr = 0) :
    fillBody s = conversionHang ∧ s.params.adcAnswer ≠ .assured ∨
      ∃ t, fillBody s = .next t ∧ InvariantAt .sampPoll t ∧ SameEpisode s t ∧ (s.cmdS = true → t.cmdS = true) := by
  obtain ⟨hst, hph⟩ := control_eq_iff.1 h.control
  have hn := h.sound.n_pos
  obtain hhang | ⟨t, ht, ⟨-, tst, tph, -, twr⟩, hsame⟩ :=
    fill_cases s.params.n s ⟨h.sound.noFault, hst, by rw [if_neg (by omega)]; exact hph, h.converter, by omega⟩
  · exact .inl hhang
  · rw [if_pos (show t.wr = t.params.n from twr)] at tph
    have hinv := (keptBy_runInvariant _).fillBody h.runInvariant ht
    exact .inr ⟨t, ht, hinv.at_control (control_eq_iff.2 ⟨tst, tph⟩), hsame,
      fun hc => (keptBy_cell .cmdS (by decide)).fillBody hc ht⟩

/-- SAMP_POLL ends the tick: to TRANSFER, or to IDLE with ENTRY = 1. -/
theorem sampPoll_ends_tick {s : State} (h : InvariantAt .sampPoll s) :
    ∃ t, execSampPoll s = .next t ∧ EndsTick t ∧ t.ind = s.ind ∧ t.wr = s.wr ∧ t.buf = s.buf ∧ t.batch = s.batch ∧
      t.cmdS = false ∧
      if s.cmdS = true then t.st = ST.transfer ∧ t.entry = s.entry else t.st = ST.idle ∧ t.entry = true := by
  obtain ⟨t, hbody, hexec⟩ := h.exec_next rfl
  have hend := (sampPoll_keeps h hbody).endsTick (by split <;> rfl)
  obtain ⟨-, rfl⟩ := sampPollBody_ok hbody
  refine ⟨_, hexec, hend, ?_⟩
  split <;> exact ⟨rfl, rfl, rfl, rfl, rfl, rfl, rfl⟩

theorem samplingTick_cases {s : State} (h : InvariantAt .sampTop s) :
    samplingTick s = conversionHang ∧ s.params.adcAnswer ≠ .assured ∨
      ∃ t, samplingTick s = .next t ∧ EndsTick t ∧ SamplingRow s t := by
  obtain ⟨a, hbody, hexec⟩ := h.exec_next rfl
  have ha := sampTop_keeps h hbody
  obtain rfl := Except.ok.inj hbody
  rw [samplingTick, andThen_of_next (r := execSampTop s) hexec ha.sound.noFault]
  obtain ⟨hhang, hans⟩ | ⟨b, hb, hbat, hsame, hlatch⟩ := fillBody_cases ha rfl
  · exact .inl ⟨by rw [hhang]; rfl, hans⟩
  obtain ⟨iparams, -, -, ientry, ibatch, -, -, iind, ibuf, -⟩ := interfere_frame hbat.sound.noFault
  obtain ⟨-, iwr, ifill⟩ := hbat.interfere.asserts
  rw [iparams, hsame.params] at iwr ifill
  obtain ⟨t, ht, hend, tind, twr, tbuf, tbatch, tcmdS, hpoll⟩ := sampPoll_ends_tick hbat.interfere
  rw [ientry, hsame.entry] at hpoll
  refine .inr ⟨t, (andThen_of_next hb hbat.sound.noFault).trans ht, hend, tind.trans (iind.trans hsame.ind),
    twr.trans iwr, fun k hk => tbuf ▸ ifill k hk, tbatch.trans (ibatch.trans hsame.batch), tcmdS, fun hc => ?_, _, b,
    hexec, (exec_fill_eq ha).trans hb, tbuf.trans ibuf, hpoll⟩
  have hpolled : (interfere b).cmdS = true := interfere_cell (c := .cmdS) (hlatch hc)
  rw [if_pos hpolled] at hpoll
  exact hpoll.1

/-! ### TRANSFER -/

/-- R109's rows of TRANSFER. -/
def TransferRow (s t : State) : Prop :=
  t.ind = some 0b10#2 ∧ t.batch = s.batch + 1 ∧ t.buf = s.buf ∧ t.cmdO = false ∧
    t.sentBytes = s.sentBytes ++ batchBytes (s.elements s.params.n) ∧
    (s.cmdO = true → s.batch + 1 < s.params.m → t.st = ST.sampling) ∧
    ∃ a b, exec .xferTop s = .next a ∧ exec .send a = .next b ∧
      if (interfere b).cmdO = true ∧ s.batch + 1 < s.params.m then t.st = ST.sampling ∧ t.entry = s.entry
      else t.st = ST.idle ∧ t.entry = true

/-- SEND, from where XFER_TOP leaves MAIN, is its body. -/
theorem exec_send_eq {s : State} (h : InvariantAt .txLo s) : exec .send s = sendBody s := by
  obtain ⟨hst, hph⟩ := control_eq_iff.1 h.control
  exact if_pos (by simp [h.sound.noFault, hst, hph, MainStep.control])

/-- A send keeps the invariant and the continue-or-stop latch; it waits without end or passes the whole buffer on and
leaves MAIN at XFER_POLL. -/
theorem sendBody_cases {s : State} (h : InvariantAt .txLo s) (hr : s.rd = 0) :
    (∃ m, (m = .txLo ∨ m = .txHi) ∧ sendBody s = transmitHang m ∧ s.params.txAnswer ≠ .assured) ∨
      ∃ t, sendBody s = .next t ∧ InvariantAt .xferPoll t ∧ SameEpisode s t ∧ t.buf = s.buf ∧
        t.sentBytes = s.sentBytes ++ batchBytes (s.elements s.params.n) ∧ (s.cmdO = true → t.cmdO = true) := by
  obtain ⟨hst, hph⟩ := control_eq_iff.1 h.control
  have hn := h.sound.n_pos
  obtain ⟨-, hw, hfill, -⟩ := h.asserts
  obtain hhang | ⟨t, ht, ⟨-, tst, tph, -, -, trd⟩, hsame, tbuf, tsent⟩ :=
    send_cases s.params.n s ⟨h.sound.noFault, hst, by rw [if_neg (by omega)]; exact hph, ⟨hw, hfill⟩, h.sound.hold,
      by omega⟩
  · exact .inl hhang
  · rw [if_pos (show t.rd = t.params.n from trd)] at tph
    rw [hr, ← List.range_eq_range'] at tsent
    have hinv := (keptBy_runInvariant _).sendBody h.runInvariant ht
    exact .inr ⟨t, ht, hinv.at_control (control_eq_iff.2 ⟨tst, tph⟩), hsame, tbuf, tsent,
      fun hc => (keptBy_cell .cmdO (by decide)).sendBody hc ht⟩

/-- XFER_POLL ends the tick, one batch counted: to SAMPLING, or to IDLE with ENTRY = 1. -/
theorem xferPoll_ends_tick {s : State} (h : InvariantAt .xferPoll s) :
    ∃ t, execXferPoll s = .next t ∧ EndsTick t ∧ t.ind = s.ind ∧ t.batch = s.batch + 1 ∧ t.buf = s.buf ∧
      t.cmdO = false ∧ t.sentBytes = s.sentBytes ∧
      if s.cmdO = true ∧ s.batch + 1 < s.params.m then t.st = ST.sampling ∧ t.entry = s.entry
      else t.st = ST.idle ∧ t.entry = true := by
  obtain ⟨t, hbody, hexec⟩ := h.exec_next rfl
  have hend := (xferPoll_keeps h hbody).endsTick (by split <;> rfl)
  obtain ⟨hb, rfl⟩ := xferPollBody_ok hbody
  have hlt : s.batch + 1 < s.params.m ↔ s.batch + 1 ≠ s.params.m := by omega
  simp only [hlt]
  refine ⟨_, hexec, hend, ?_⟩
  split <;> exact ⟨rfl, rfl, rfl, rfl, rfl, rfl, rfl⟩

theorem transferTick_cases {s : State} (h : InvariantAt .xferTop s) :
    (∃ m, (m = .txLo ∨ m = .txHi) ∧ transferTick s = transmitHang m ∧ s.params.txAnswer ≠ .assured) ∨
      ∃ t, transferTick s = .next t ∧ EndsTick t ∧ TransferRow s t := by
  obtain ⟨a, hbody, hexec⟩ := h.exec_next rfl
  have ha := xferTop_keeps h hbody
  obtain ⟨-, -, rfl⟩ := xferTopBody_ok hbody
  rw [transferTick, andThen_of_next (r := execXferTop s) hexec ha.sound.noFault]
  obtain ⟨m, hm, hhang, hans⟩ | ⟨b, hb, hbat, hsame, bbuf, bsent, hlatch⟩ := sendBody_cases ha rfl
  · exact .inl ⟨m, hm, by rw [hhang]; rfl, hans⟩
  obtain ⟨iparams, -, -, ientry, ibatch, -, -, iind, ibuf, -⟩ := interfere_frame hbat.sound.noFault
  obtain ⟨-, isent, -⟩ := interfere_sentBytes hbat.sound.hold
  obtain ⟨t, ht, hend, tind, tbatch, tbuf, tcmdO, tsent, hpoll⟩ := xferPoll_ends_tick hbat.interfere
  rw [ientry, hsame.entry, ibatch, hsame.batch, iparams, hsame.params] at hpoll
  rw [ibatch, hsame.batch] at tbatch
  refine .inr ⟨t, (andThen_of_next hb hbat.sound.noFault).trans ht, hend, tind.trans (iind.trans hsame.ind), tbatch,
    tbuf.trans (ibuf.trans bbuf), tcmdO, tsent.trans (isent.trans bsent), fun hc hm => ?_, _, b, hexec,
    (exec_send_eq ha).trans hb, hpoll⟩
  have hpolled : (interfere b).cmdO = true := interfere_cell (c := .cmdO) (hlatch hc)
  rw [if_pos ⟨hpolled, hm⟩] at hpoll
  exact hpoll.1

/-! ### TICK -/

theorem exec_tick_eq {s : State} (hf : s.fault = none) (hph : s.ph = PH.top) :
    exec .tick s =
      if s.st = ST.idle then idleTick s
      else if s.st = ST.sampling then samplingTick s
      else if s.st = ST.transfer then transferTick s
      else .next (s.raiseFault .badControl Instr.tick.opid) :=
  if_pos (by simp [hf, hph])

/-- At PH_TOP a state of the invariant is at the top step of its ST. -/
theorem RunInvariant.at_top {s : State} (h : RunInvariant s) (hph : s.ph = PH.top) :
    InvariantAt .idleTop s ∨ InvariantAt .sampTop s ∨ InvariantAt .xferTop s := by
  obtain ⟨m, hm⟩ := runInvariant_iff.1 h
  have hc : m.control.2 = PH.top := (control_eq_iff.1 hm.control).2.symm.trans hph
  cases m with
  | idleTop => exact .inl hm
  | sampTop => exact .inr (.inl hm)
  | xferTop => exact .inr (.inr hm)
  | _ => exact absurd hc (by decide)

/-- All a tick can do in the invariant: MAIN waits without end, which the supposition on the agent it waits for rules
out; or the tick ends, by the rows of its ST. -/
theorem tick_cases {s : State} (h : RunInvariant s) (hph : s.ph = PH.top) :
    (∃ op, exec .tick s = .fault (.waitsForever op) ∧
      (s.st = ST.sampling ∧ s.params.adcAnswer ≠ .assured ∨ s.st = ST.transfer ∧ s.params.txAnswer ≠ .assured)) ∨
      ∃ t, exec .tick s = .next t ∧ EndsTick t ∧ (s.st = ST.idle → IdleRow s t) ∧
        (s.st = ST.sampling → SamplingRow s t) ∧ (s.st = ST.transfer → TransferRow s t) := by
  obtain hm | hm | hm := h.at_top hph
  all_goals
    obtain ⟨hst, -⟩ := control_eq_iff.1 hm.control
    rw [exec_tick_eq hm.sound.noFault hph, hst]
  · obtain ⟨t, ht, hend, hrow⟩ := idleTick_next hm
    exact .inr ⟨t, ht, hend, fun _ => hrow, nofun, nofun⟩
  · obtain ⟨hhang, ha⟩ | ⟨t, ht, hend, hrow⟩ := samplingTick_cases hm
    · exact .inl ⟨_, hhang, .inl ⟨rfl, ha⟩⟩
    · exact .inr ⟨t, ht, hend, nofun, fun _ => hrow, nofun⟩
  · obtain ⟨m, -, hhang, ha⟩ | ⟨t, ht, hend, hrow⟩ := transferTick_cases hm
    · exact .inl ⟨_, hhang, .inr ⟨rfl, ha⟩⟩
    · exact .inr ⟨t, ht, hend, nofun, nofun, fun _ => hrow⟩

/-- Settles O33: a tick that does not wait without end answers one state, and its rows hold of that state. -/
theorem tickFollowsTheTransitionTable : Obligations.TickFollowsTheTransitionTable := by
  intro s h hph
  obtain ⟨op, hhang, hcause⟩ | ⟨t, ht, ⟨hinv, htop⟩, hrows⟩ := tick_cases h hph
  · refine ⟨fun hadc htx => ?_, fun t ht => nomatch hhang.symm.trans ht⟩
    obtain ⟨hst, ha⟩ | ⟨hst, ha⟩ := hcause
    · exact absurd (hadc hst) ha
    · exact absurd (htx hst) ha
  · refine ⟨fun _ _ => ⟨t, ht⟩, fun u hu => ?_⟩
    obtain rfl := Host.Outcome.next.inj (ht.symm.trans hu)
    exact ⟨hinv, htop, hrows⟩

end Sys2Proof.Machine
end

section
/-! PROOF. The event-capture layer (41_event_capture.md): each cell operation and each handler as one update of the state
(R125 to R133), both orders of a set and a clear (R121), and which operations move a cell (R120). -/

namespace Sys2Proof.Machine

/-- Where it is not enabled a schedulable operation is stuck (R80). -/
theorem stuckAt_of_not_enabled {i : Instr} {s : State} (hi : i.schedulable = true)
    (hw : i.wellFormed s.params.adcBits = true) (he : enabled i s = false) : StuckAt i s := by
  have hperf := performedExactlyWhenEnabled i s hi hw
  rwa [if_neg (by simp [he])] at hperf

/-! ### The cell operations and TRIG_ISR -/

/-- Settles O34: each is a set or a clear of its cell under FAULT = 0 alone. -/
theorem setAndClearOperations : Obligations.SetAndClearOperations :=
  ⟨rfl, rfl, rfl, rfl, fun _ hf =>
    ⟨perform_always _ (State.setCell .trig) hf, perform_always _ (State.setCell .cmdS) hf,
      perform_always _ (State.setCell .cmdO) hf, perform_always _ (State.clearCell .trig) hf⟩⟩

/-- Settles O35: each is a test-and-clear of its cell, its value returned, under FAULT = 0 alone. -/
theorem testAndClearOperations : Obligations.TestAndClearOperations := fun _ hf =>
  ⟨perform_always _ (State.testAndClearReturning .trig) hf, perform_always _ (State.testAndClearReturning .cmdS) hf,
    perform_always _ (State.testAndClearReturning .cmdO) hf⟩

theorem exec_trigIsr {s : State} (hf : s.fault = none) : exec .trigIsr s = .next { s with trig := true } :=
  perform_always _ (State.setCell .trig) hf

/-- Settles O36: TRIG_ISR's guard is FAULT = 0, and a set of a cell already set changes nothing. -/
theorem trigIsrResult : Obligations.TrigIsrResult := by
  refine ⟨rfl, fun s hf => ?_, fun s hf => ⟨exec_trigIsr hf, fun t ht => ?_⟩⟩
  · exact stuckAt_of_not_enabled rfl rfl (by simpa [enabled, Option.isSome_iff_ne_none] using hf)
  · obtain rfl := Host.Outcome.next.inj ((exec_trigIsr hf).symm.trans ht)
    exact exec_trigIsr (s := { s with trig := true }) hf

/-- Settles O40: each order is TRIG_ISR's next state followed by MAIN's, or MAIN's followed by TRIG_ISR's. -/
theorem raceOrdersOfTheTriggerCell : Obligations.RaceOrdersOfTheTriggerCell := by
  refine fun s hf hst => ⟨fun hph => ⟨?_, ?_⟩, fun hph => ⟨?_, ?_⟩⟩
  · exact ⟨_, _, exec_trigIsr hf, exec_idleTest (s := { s with trig := true }) hf hst hph, rfl, rfl⟩
  · exact ⟨_, _, exec_idleTest hf hst hph, exec_trigIsr hf, rfl, rfl⟩
  · exact ⟨_, _, exec_trigIsr hf, exec_debounceDone (s := { s with trig := true }) hf hst hph, rfl⟩
  · exact ⟨_, _, exec_debounceDone hf hst hph, exec_trigIsr hf, rfl⟩

/-! ### RX_ISR -/

/-- Settles O37: RX_ISR's guard is a byte pending under FAULT = 0, and it takes the byte at the head. -/
theorem rxIsrResult : Obligations.RxIsrResult := by
  refine ⟨rfl, fun s hf => ?_, fun s _ hr => ?_, fun s b rest hf hr => ?_⟩
  · exact stuckAt_of_not_enabled rfl rfl (by simp [enabled, hf])
  · exact stuckAt_of_not_enabled rfl rfl (by simp [enabled, State.rxPending, hr])
  · exact exec_rxIsr hf hr

/-! ### Who moves a cell -/

/-- All a MAIN step's body does to a cell: nothing, or it is the cell's consuming step and leaves it 0, IDLE_TOP only with
the entry pending (R120, R101). -/
theorem main_cell_cases {m : MainStep} {s t : State} (h : m.body s = .ok t) (c : SignalCell) :
    t.cell c = s.cell c ∨ t.cell c = false ∧ m.clears = some c ∧ (m = .idleTop → s.entry = true) := by
  by_cases hc : m.clears = some c
  case neg => exact .inl (main_cell h hc)
  cases m with
  | idleTop =>
    obtain rfl := Option.some.inj hc
    obtain rfl := idleTopBody_ok h
    split
    · next he => exact .inr ⟨rfl, rfl, fun _ => he⟩
    · exact .inl rfl
  | idleTest =>
    obtain rfl := Option.some.inj hc
    obtain rfl := idleTestBody_ok h
    exact .inr ⟨rfl, rfl, nofun⟩
  | debounceDone =>
    obtain rfl := Option.some.inj hc
    obtain rfl := Except.ok.inj h
    exact .inr ⟨rfl, rfl, nofun⟩
  | sampPoll =>
    obtain rfl := Option.some.inj hc
    obtain ⟨-, rfl⟩ := sampPollBody_ok h
    split <;> exact .inr ⟨rfl, rfl, nofun⟩
  | xferPoll =>
    obtain rfl := Option.some.inj hc
    obtain ⟨-, rfl⟩ := xferPollBody_ok h
    split <;> exact .inr ⟨rfl, rfl, nofun⟩
  | sampTop | convStart | convCollect | xferTop | txLo | txHi => exact nomatch hc

/-- The operations that clear a cell, and where: its consuming state (R120). -/
def ClearedBy (i : Instr) (s : State) : SignalCell → Prop
  | .trig => s.st = ST.idle ∧ (i = .idleTest ∨ i = .debounceDone ∨ i = .idleTop ∧ s.entry = true)
  | .cmdS => i = .sampPoll ∧ s.st = ST.sampling
  | .cmdO => i = .xferPoll ∧ s.st = ST.transfer

/-- The operation that sets a cell: its handler, RX_ISR by the byte at the head of RXQ (R120, R73). -/
def SetBy (i : Instr) (s : State) : SignalCell → Prop
  | .trig => i = .trigIsr
  | .cmdS => i = .rxIsr ∧ s.rxq.head? = some 0x73#8
  | .cmdO => i = .rxIsr ∧ s.rxq.head? = some 0x6F#8

theorem clearedBy_of_clears {m : MainStep} {c : SignalCell} {s : State} (hm : m.clears = some c)
    (hst : s.st = m.control.1) (he : m = .idleTop → s.entry = true) : ClearedBy m.toInstr s c := by
  cases m with
  | idleTop => obtain rfl := Option.some.inj hm; exact ⟨hst, .inr (.inr ⟨rfl, he rfl⟩)⟩
  | idleTest => obtain rfl := Option.some.inj hm; exact ⟨hst, .inl rfl⟩
  | debounceDone => obtain rfl := Option.some.inj hm; exact ⟨hst, .inr (.inl rfl)⟩
  | sampPoll => obtain rfl := Option.some.inj hm; exact ⟨rfl, hst⟩
  | xferPoll => obtain rfl := Option.some.inj hm; exact ⟨rfl, hst⟩
  | sampTop | convStart | convCollect | xferTop | txLo | txHi => exact nomatch hm

/-- All a MAIN step does to a cell: nothing, or it clears it in its consuming state (R120). -/
theorem exec_main_cell {m : MainStep} {s t : State} (h : exec m.toInstr s = .next t) (c : SignalCell) :
    t.cell c = s.cell c ∨ t.cell c = false ∧ ClearedBy m.toInstr s c := by
  rw [exec_main] at h
  obtain ⟨-, ⟨-, rfl⟩ | ⟨hctl, -, hb | ⟨e, -, rfl⟩⟩⟩ := performMain_next h
  · exact .inl (by cases c <;> rfl)
  · obtain hsame | ⟨hclear, hm, he⟩ := main_cell_cases hb c
    · exact .inl hsame
    · exact .inr ⟨hclear, clearedBy_of_clears hm (control_eq_iff.1 hctl).1 he⟩
  · exact .inl (by cases c <;> rfl)

/-- A cell another agent's step sets is the handler's own (R120). -/
theorem other_sets_cell {o : OtherStep} {c : SignalCell} {s t : State} (h : o.Effect s t) (hs : s.cell c = false)
    (ht : t.cell c = true) : SetBy o.toInstr s c := by
  have hne : t.cell c ≠ s.cell c := by simp [hs, ht]
  cases o with
  | trigIsr =>
    obtain rfl := h
    cases c with
    | trig => rfl
    | cmdS | cmdO => exact absurd rfl hne
  | rxIsr =>
    obtain ⟨b, rest, hr, rfl⟩ := h
    rw [State.takeHostByte_eq] at hne
    cases c with
    | trig => exact absurd rfl hne
    | cmdS =>
      obtain rfl : b = 0x73#8 := by_contra fun hb => hne (if_neg hb)
      exact ⟨rfl, by rw [hr]; rfl⟩
    | cmdO =>
      obtain rfl : b = 0x6F#8 := by_contra fun hb => hne (if_neg hb)
      exact ⟨rfl, by rw [hr]; rfl⟩
  | hostSend b => obtain rfl := h; exact absurd (by cases c <;> simp) hne
  | adcComplete v => obtain ⟨-, -, rfl⟩ := h; exact absurd (by cases c <;> rfl) hne
  | txShift => obtain ⟨-, rfl⟩ := h; exact absurd (by cases c <;> simp) hne

/-- No operation but RESET moves a cell out of its pair: its handler sets it, its consuming state clears it (R120). -/
theorem exec_moves_cell {i : Instr} {s t : State} (hi : i.schedulable = true) (hreset : i ≠ .reset)
    (h : exec i s = .next t) (c : SignalCell) :
    (s.cell c = false → t.cell c = true → SetBy i s c) ∧ (s.cell c = true → t.cell c = false → ClearedBy i s c) := by
  obtain ⟨m, rfl⟩ | ⟨o, rfl⟩ | rfl := schedulable_cases hi
  · obtain hsame | ⟨hclear, hby⟩ := exec_main_cell h c
    · exact ⟨fun hs ht => absurd (hsame.symm.trans ht) (by simp [hs]),
        fun hs ht => absurd (hsame.symm.trans ht) (by simp [hs])⟩
    · exact ⟨fun _ ht => absurd ht (by simp [hclear]), fun _ _ => hby⟩
  · rw [exec_other] at h
    obtain ⟨-, he⟩ := other_next h
    exact ⟨other_sets_cell he, fun hs ht => absurd (other_cell he hs) (by simp [ht])⟩
  · exact absurd rfl hreset

/-- Settles O39: every cell moves by its pair alone. -/
theorem cellsTouchedOnlyByTheirPair : Obligations.CellsTouchedOnlyByTheirPair := by
  intro i s t hi hreset h
  obtain ⟨hsetT, hclearT⟩ := exec_moves_cell hi hreset h .trig
  obtain ⟨hsetS, hclearS⟩ := exec_moves_cell hi hreset h .cmdS
  obtain ⟨hsetO, hclearO⟩ := exec_moves_cell hi hreset h .cmdO
  exact ⟨hsetT, hsetS, hsetO, hclearT, hclearS, hclearO⟩

end Sys2Proof.Machine
end

section
/-! PROOF. The four MAIN steps of the sampler and the transmitter, each from its own control point
(42_sampler_transmitter.md R141 to R145): its faults in the order tested, its whole next state, and stuck elsewhere
(R80). -/

namespace Sys2Proof.Machine

/-- Settles O43: the bound is tested first, then the converter, and only then is anything written. -/
theorem convStartResult : Obligations.ConvStartResult := by
  refine ⟨rfl, onlyUnder_main (m := .convStart) fun _ hc _ => control_eq_iff.1 hc, fun s hf hst hph => ?_⟩
  rw [show exec .convStart s = _ from exec_main_of_ready (m := .convStart) hf (control_eq_iff.2 ⟨hst, hph⟩) rfl]
  simp only [MainStep.body, convStartBody, State.startConversion, Bool.or_eq_true]
  split_ifs <;> rfl

/-! ### CONV_COLLECT -/

theorem State.readAdcRes_of_written {s : State} {v : Sample} (h : s.adcRes = some v) : s.readAdcRes = (v, s) := by
  simp only [State.readAdcRes, h]

theorem convCollectBody_of_beyond {s : State} (hd : s.adcDone = true) (hw : s.params.n ≤ s.wr) :
    convCollectBody s = .error .index := by
  simp only [convCollectBody, State.readConversionResult, if_pos hd]
  rw [memWrite_of_beyond (by simpa using hw)]

theorem convCollectBody_of_room {s : State} (hd : s.adcDone = true) (hw : s.wr < s.params.n) :
    convCollectBody s = .ok { s with
      buf := Memory.write s.buf s.wr s.readAdcRes.1, wr := s.wr + 1, adcDone := false, draws := s.readAdcRes.2.draws
      ph := if s.wr + 1 = s.params.n then PH.sampPoll else PH.convStart } := by
  simp only [convCollectBody, State.readConversionResult, if_pos hd]
  rw [memWrite_ok_iff.2 ⟨by simpa using hw, rfl⟩]
  simp [increment_index hw]

/-- Settles O44: the result is read before the bound is tested, and what it writes at WR is what ADC_RES holds. -/
theorem convCollectResult : Obligations.ConvCollectResult := by
  refine ⟨rfl, onlyUnder_main (m := .convCollect) fun s hc hr => ?_,
    fun s hf hst hph hd => ⟨fun hw => ?_, fun hw => ?_⟩⟩
  · obtain ⟨hst, hph⟩ := control_eq_iff.1 hc
    exact ⟨hst, hph, hr⟩
  · exact exec_main_of_error (m := .convCollect) hf hst hph hd (convCollectBody_of_beyond hd hw)
  · refine ⟨s.readAdcRes.1, s.readAdcRes.2.draws, fun v hv => ?_,
      exec_main_of_ok (m := .convCollect) hf hst hph hd (convCollectBody_of_room hd hw),
      Memory.read_write_same _ _ _, fun _ hj => Memory.read_write_other _ _ hj⟩
    rw [State.readAdcRes_of_written hv]
    exact ⟨rfl, rfl⟩

/-! ### TX_LO and TX_HI -/

/-- What TX_LO and TX_HI find at RD: the three faults in the order tested, or the element (R144, R145). -/
theorem elementToSend_cases (s : State) :
    (s.wr ≠ s.params.n → elementToSend s = .error .bufNotFull) ∧
      (s.wr = s.params.n → s.params.n ≤ s.rd → elementToSend s = .error .index) ∧
      (s.wr = s.params.n → s.rd < s.params.n → Memory.read s.buf s.rd = none →
        elementToSend s = .error .unwrittenRead) ∧
      (s.wr = s.params.n → s.rd < s.params.n → ∀ v, Memory.read s.buf s.rd = some v → elementToSend s = .ok v) :=
  ⟨fun hw => if_pos hw, fun hw hr => (if_neg (not_not.2 hw)).trans (memRead_of_beyond hr),
    fun hw hr hm => (if_neg (not_not.2 hw)).trans (memRead_of_unwritten hr hm),
    fun hw hr _ hm => elementToSend_ok_iff.2 ⟨hw, hr, hm⟩⟩

theorem txLoBody_of_error {s : State} {e : FaultReason} (h : elementToSend s = .error e) : txLoBody s = .error e := by
  simp only [txLoBody, h]

theorem txHiBody_of_error {s : State} {e : FaultReason} (h : elementToSend s = .error e) : txHiBody s = .error e := by
  simp only [txHiBody, h]

theorem txLoBody_of_element {s : State} {v : Sample} (h : elementToSend s = .ok v) :
    txLoBody s = .ok { s with txHold := some (lowByte v), txFull := true, ph := PH.txHi } := by
  simp only [txLoBody, h, State.sendByte]

theorem txHiBody_of_element {s : State} {v : Sample} (h : elementToSend s = .ok v) :
    txHiBody s = .ok { s with
      txHold := some (highByte v), txFull := true, rd := s.rd + 1
      ph := if s.rd + 1 = s.params.n then PH.xferPoll else PH.txLo } := by
  obtain ⟨-, hr, -⟩ := elementToSend_ok_iff.1 h
  simp only [txHiBody, h, State.sendByte, increment_index hr]

section
variable {m : MainStep} (hm : ∀ s : State, m.ready s = !s.txFull)
include hm

/-- A MAIN step that waits for the transmitter is stuck while TX_FULL = 1 (R111, R144, R145). -/
theorem onlyUnder_transmit :
    OnlyUnder m.toInstr fun s => s.st = m.control.1 ∧ s.ph = m.control.2 ∧ s.txFull = false :=
  onlyUnder_main fun s hc hr => by
    obtain ⟨hst, hph⟩ := control_eq_iff.1 hc
    exact ⟨hst, hph, by simpa [hm s] using hr⟩

/-- A MAIN step that waits for the transmitter, then sends of the element at RD: the faults of the element's read, or
its own next state (R144, R145). -/
theorem exec_transmit {next : State → Sample → State}
    (herror : ∀ {s : State} {e : FaultReason}, elementToSend s = .error e → m.body s = .error e)
    (hok : ∀ {s : State} {v : Sample}, elementToSend s = .ok v → m.body s = .ok (next s v)) (s : State)
    (hf : s.fault = none) (hst : s.st = m.control.1) (hph : s.ph = m.control.2) (hx : s.txFull = false) :
    (s.wr ≠ s.params.n → FaultsWith m.toInstr s .bufNotFull) ∧
      (s.wr = s.params.n → s.params.n ≤ s.rd → FaultsWith m.toInstr s .index) ∧
      (s.wr = s.params.n → s.rd < s.params.n → Memory.read s.buf s.rd = none →
        FaultsWith m.toInstr s .unwrittenRead) ∧
      (s.wr = s.params.n → s.rd < s.params.n → ∀ v, Memory.read s.buf s.rd = some v →
        exec m.toInstr s = .next (next s v)) := by
  have hr : m.ready s = true := by rw [hm, hx]; rfl
  have hfault {e : FaultReason} (he : elementToSend s = .error e) : FaultsWith m.toInstr s e :=
    exec_main_of_error hf hst hph hr (herror he)
  obtain ⟨hfull, hindex, hunwritten, helement⟩ := elementToSend_cases s
  exact ⟨fun hw => hfault (hfull hw), fun hw hrd => hfault (hindex hw hrd),
    fun hw hrd hread => hfault (hunwritten hw hrd hread),
    fun hw hrd v hread => exec_main_of_ok hf hst hph hr (hok (helement hw hrd v hread))⟩

end

/-- Settles O45: the faults are those of the element's read, and its low byte is passed on. -/
theorem txLoResult : Obligations.TxLoResult :=
  ⟨rfl, onlyUnder_transmit (m := .txLo) fun _ => rfl,
    exec_transmit (m := .txLo) (fun _ => rfl) txLoBody_of_error txLoBody_of_element⟩

/-- Settles O46: the element is read again, with the same faults, and its high byte is passed on. -/
theorem txHiResult : Obligations.TxHiResult :=
  ⟨rfl, onlyUnder_transmit (m := .txHi) fun _ => rfl,
    exec_transmit (m := .txHi) (fun _ => rfl) txHiBody_of_error txHiBody_of_element⟩

end Sys2Proof.Machine
end

section
/-! PROOF. A whole FILL and a whole SEND (42_sampler_transmitter.md R140, R143): the results a fill has converted,
element by element, and the bytes a send has passed on, counted. -/

namespace Sys2Proof.Machine

/-! ### FILL -/

/-- One element of a fill: the result v, in range, goes to BUF[WR] and stays in ADC_RES (R140, R142). -/
structure Converts (v : Sample) (s t : State) : Prop where
  range : inAdcRange s.params v = true
  buf : t.buf = Memory.write s.buf s.wr v
  adcRes : t.adcRes = some v
  wr : t.wr = s.wr + 1
  rd : t.rd = s.rd
  params : t.params = s.params

/-- An element of a fill that ends converts one result and leaves MAIN one element further on. -/
theorem FillAt.element {k : Nat} {s t : State} (hs : FillAt (k + 1) s) (h : fillElement s = .next t) :
    FillAt k t ∧ ∃ v, Converts v s t := by
  obtain ⟨hf, hst, hph, ⟨hb, hd⟩, hw⟩ := hs
  rw [if_neg (by omega)] at hph
  obtain ⟨hhang, -⟩ | ⟨-, a, v, hnext, hv, abuf, awr, aph, ares, ab, ad, ap, ast, -, -, ard, -, af, -⟩ :=
    fillElement_cases hf hst hph (by omega) hb hd
  · exact nomatch h.symm.trans hhang
  · obtain rfl := Host.Outcome.next.inj (h.symm.trans hnext)
    exact ⟨⟨af, ast.trans hst, by rw [aph, awr, ap], ⟨ab, ad⟩, by rw [awr, ap]; omega⟩,
      v, hv, abuf, ares, awr, ard, ap⟩

/-- What a fill from s to t has done: the results rs, in range, stand in BUF from WR on, each the one ADC_RES holds
after its own pair of steps, and no other element has changed (R140). -/
structure Fills (rs : List Sample) (s t : State) : Prop where
  range : ∀ r ∈ rs, inAdcRange s.params r = true
  written : ∀ k < rs.length, Memory.read t.buf (s.wr + k) = rs[k]?
  pair : ∀ k < rs.length, ∃ u, repeatTimes (k + 1) fillElement s = .next u ∧ u.wr = s.wr + k + 1 ∧ u.adcRes = rs[k]?
  kept : ∀ i, i < s.wr ∨ s.wr + rs.length ≤ i → Memory.read t.buf i = Memory.read s.buf i
  rd : t.rd = s.rd

theorem Fills.nil (s : State) : Fills [] s s :=
  ⟨fun _ h => absurd h List.not_mem_nil, fun _ h => absurd h (Nat.not_lt_zero _),
    fun _ h => absurd h (Nat.not_lt_zero _), fun _ _ => rfl, rfl⟩

/-- A fill is its first element, then the rest, which does not come back to the first. -/
theorem Fills.cons {v : Sample} {rs : List Sample} {s a t : State} (hv : Converts v s a)
    (ha : fillElement s = .next a) (hf : a.fault = none) (h : Fills rs a t) : Fills (v :: rs) s t where
  range := List.forall_mem_cons.2 ⟨hv.range, fun r hr => hv.params ▸ h.range r hr⟩
  written
    | 0, _ => by
      rw [h.kept _ (.inl (by rw [hv.wr]; omega)), hv.buf]
      exact Memory.read_write_same _ _ _
    | k + 1, hk => by
      have hread := h.written k (Nat.lt_of_succ_lt_succ hk)
      rwa [hv.wr, Nat.add_right_comm, Nat.add_assoc] at hread
  pair
    | 0, _ => ⟨a, andThen_of_next ha hf, hv.wr, hv.adcRes⟩
    | k + 1, hk => by
      obtain ⟨u, hu, uwr, ures⟩ := h.pair k (Nat.lt_of_succ_lt_succ hk)
      exact ⟨u, (andThen_of_next ha hf).trans hu, by rw [uwr, hv.wr]; omega, ures⟩
  kept i hi := by
    rw [List.length_cons] at hi
    rw [h.kept i (by rw [hv.wr]; omega), hv.buf]
    exact Memory.read_write_other _ _ (by omega)
  rd := h.rd.trans hv.rd

/-- A fill of k elements that ends has converted k results. -/
theorem FillAt.fills {t : State} (k : Nat) : ∀ s, FillAt k s → repeatTimes k fillElement s = .next t →
    ∃ rs : List Sample, rs.length = k ∧ Fills rs s t := by
  induction k with
  | zero =>
    intro s _ h
    obtain rfl := Host.Outcome.next.inj h
    exact ⟨[], rfl, .nil s⟩
  | succ k ih =>
    intro s hs h
    obtain ⟨a, ha, hrest⟩ := andThen_next h
    obtain ⟨hat, v, hv⟩ := hs.element ha
    obtain ⟨hfault, -⟩ | ⟨-, hrest⟩ := hrest
    · exact absurd hat.noFault hfault
    · obtain ⟨rs, hlen, hfills⟩ := ih a hat hrest
      exact ⟨v :: rs, congrArg Nat.succ hlen, hfills.cons hv ha hat.noFault⟩

/-- FILL, where SAMP_TOP leaves MAIN, is N elements of a fill. -/
theorem exec_fill {s : State} (hf : s.fault = none) (hst : s.st = ST.sampling) (hph : s.ph = PH.convStart) :
    exec .fill s = repeatTimes s.params.n fillElement s :=
  if_pos (by simp [hf, hst, hph])

/-- Settles O47: by induction on the elements to come; the last pair is the whole fill, so ADC_RES holds the last
result. -/
theorem fillWritesEveryElement : Obligations.FillWritesEveryElement := by
  intro s hf hst hph hw hn hb hd
  have hs : FillAt s.params.n s := ⟨hf, hst, by rw [if_neg (by omega)]; exact hph, ⟨hb, hd⟩, by omega⟩
  rw [exec_fill hf hst hph]
  obtain ⟨hhang, hans⟩ | ⟨t, ht, ⟨tf, tst, tph, ⟨tb, td⟩, twr⟩, hsame⟩ := fill_cases s.params.n s hs
  · exact ⟨fun h => absurd h hans, fun t h => nomatch h.symm.trans hhang⟩
  refine ⟨fun _ => ⟨t, ht⟩, fun t' h => ?_⟩
  obtain rfl := Host.Outcome.next.inj (ht.symm.trans h)
  obtain ⟨rs, hlen, hfills⟩ := hs.fills _ _ ht
  have twr' : t.wr = s.params.n := twr.trans (congrArg _ hsame.params)
  obtain ⟨u, hu, -, ures⟩ := hfills.pair (s.params.n - 1) (by omega)
  rw [Nat.sub_add_cancel hn] at hu
  obtain rfl := Host.Outcome.next.inj (hu.symm.trans ht)
  refine ⟨rs, hlen, hfills.range, fun k hk => ⟨?_, ?_⟩, fun k hk => hfills.kept k (.inr (by omega)), ?_, twr', tst,
    tph.trans (if_pos twr), tb, td, tf, hsame.params, hsame.entry, hsame.batch, hfills.rd, hsame.ind, hsame.ret,
    hsame.trace⟩
  · simpa [hw] using hfills.written k (by omega)
  · simpa [hw] using hfills.pair k (by omega)
  · rw [ures, List.getLast?_eq_getElem?, hlen]

/-! ### SEND -/

/-- Each element is two bytes (R53, R74). -/
theorem length_batchBytes (vs : List Sample) : (batchBytes vs).length = 2 * vs.length := by
  induction vs with
  | nil => rfl
  | cons v vs ih => simp only [batchBytes, List.length_cons, ih]; omega

theorem State.Filled.length_elements {s : State} {k : Nat} (h : s.Filled k) : (s.elements k).length = k := by
  have hall := List.filterMap_length_eq_length.2 fun i hi => h i (List.mem_range.1 hi)
  exact hall.trans List.length_range

/-- Of the bytes passed to the transmitter at most one, the byte held, has not reached the host (R64). -/
theorem State.length_sentBytes (s : State) :
    s.hostOut.length ≤ s.sentBytes.length ∧ s.sentBytes.length ≤ s.hostOut.length + 1 := by
  rw [State.sentBytes, List.length_append]
  split
  · cases s.txHold <;> simp
  · simp

/-- SEND, where XFER_TOP leaves MAIN, is N elements of a send. -/
theorem exec_send {s : State} (hf : s.fault = none) (hst : s.st = ST.transfer) (hph : s.ph = PH.txLo) :
    exec .send s = repeatTimes s.params.n sendElement s :=
  if_pos (by simp [hf, hst, hph])

/-- Settles O48: each element passes on its two bytes in order; what HOST_OUT lacks of them is the byte held. -/
theorem sendEmitsTheBatch : Obligations.SendEmitsTheBatch := by
  intro s hf hst hph hr hn hw hfill hh
  rw [exec_send hf hst hph]
  obtain ⟨m, -, hhang, hans⟩ | ⟨t, ht, ⟨tf, tst, tph, ⟨twr, -⟩, -, trd⟩, hsame, tbuf, tsent⟩ :=
    send_cases s.params.n s
      ⟨hf, hst, by rw [if_neg (by omega)]; exact hph, ⟨hw, hfill⟩, hh, by omega⟩
  · exact ⟨fun h => absurd h hans, fun t h => nomatch h.symm.trans hhang⟩
  refine ⟨fun _ => ⟨t, ht⟩, fun t' h => ?_⟩
  obtain rfl := Host.Outcome.next.inj (ht.symm.trans h)
  rw [hr, ← List.range_eq_range'] at tsent
  have hlen : (batchBytes (s.elements s.params.n)).length = 2 * s.params.n := by
    rw [length_batchBytes, hfill.length_elements]
  have hout : s.hostOut.length + 2 * s.params.n ≤ t.hostOut.length + 1 := by
    calc s.hostOut.length + 2 * s.params.n
        ≤ s.sentBytes.length + (batchBytes (s.elements s.params.n)).length :=
          Nat.add_le_add s.length_sentBytes.1 hlen.ge
      _ = t.sentBytes.length := (List.length_append ..).symm.trans (congrArg _ tsent.symm)
      _ ≤ t.hostOut.length + 1 := t.length_sentBytes.2
  exact ⟨tsent, hlen, hout, trd.trans (congrArg _ hsame.params), tst, tph.trans (if_pos trd), tbuf,
    twr.trans ((congrArg _ hsame.params).trans hw.symm), tf, hsame.params, hsame.entry, hsame.batch, hsame.ind,
    hsame.ret, hsame.trace⟩

end Sys2Proof.Machine
end

section
/-! PROOF. The converter's and the serial port's operations executed on their own, in their enabled cases: each is one
update of the state (43_peripheral_interface.md R162 to R167, R169). -/

namespace Sys2Proof.Machine

/-- A primitive whose guard holds, and whose body raises no model fault, leaves what its body answers. -/
theorem perform_of_ok {op : Opid} {g : Bool} {body : State → Except FaultReason State} {s t : State}
    (hf : s.fault = none) (hg : g = true) (hb : body s = .ok t) : perform op g body s = .next t := by
  rw [perform_of_guard hf hg, hb, atomically_ok]

/-- An operation whose own guard does not hold is stuck (R80). -/
theorem perform_stuck {op : Opid} {g : Bool} {body : State → Except FaultReason State} {s : State} (hg : g = false) :
    perform op g body s = .fault (.notEnabled op) := by
  simp [perform, hg]

/-! ### The converter -/

theorem State.startConversion_of_free {s : State} (hb : s.adcBusy = false) (hd : s.adcDone = false) :
    s.startConversion = .ok { s with adcBusy := true } := by
  simp [State.startConversion, hb, hd]

/-- Of the state, reading ADC_RES changes at most the count of free values (log 5). -/
theorem State.readAdcRes_snd (s : State) : s.readAdcRes.2 = { s with draws := s.readAdcRes.2.draws } := by
  unfold State.readAdcRes
  split <;> rfl

theorem readConversionResultReturning_of_done {s : State} (hd : s.adcDone = true) :
    readConversionResultReturning s =
      .ok { s with adcDone := false, ret := some s.readAdcRes.1, draws := s.readAdcRes.2.draws } := by
  rw [readConversionResultReturning, State.readConversionResult, if_pos hd, State.readAdcRes_snd]
  rfl

/-- Settles O51: a free converter raises no AdcBusy and a completed conversion no AdcNotDone; the value returned is the
one that reading ADC_RES gives. -/
theorem converterOperations : Obligations.ConverterOperations := by
  refine fun s hf => ⟨fun hb hd => ?_, ?_, fun hd => ⟨s.readAdcRes.1, s.readAdcRes.2.draws, fun v hv => ?_, ?_⟩⟩
  · exact perform_of_ok hf rfl (State.startConversion_of_free hb hd)
  · exact perform_always _ (fun s => s.returning (bitSample s.adcDone)) hf
  · rw [State.readAdcRes_of_written hv]
    exact ⟨rfl, rfl⟩
  · exact perform_of_ok hf rfl (readConversionResultReturning_of_done hd)

/-! ### The serial port -/

/-- On its own, sendByte waits for TX_FULL = 0 by its guard (R165). -/
theorem exec_sendByte (b : Byte) (s : State) :
    exec (.sendByte b) s = perform (Instr.sendByte b).opid (!s.txFull) (fun s => .ok (s.sendByte b)) s := rfl

theorem bitSample_rxPending (s : State) : bitSample s.rxPending = if s.rxq = [] then 0#16 else 1#16 := by
  cases h : s.rxq <;> simp [bitSample, State.rxPending, h]

theorem readByteReturning_of_cons {s : State} {b : Byte} {rest : List Byte} (hr : s.rxq = b :: rest) :
    readByteReturning s = .ok { s with rxq := rest, ret := some (byteSample b) } := by
  rw [readByteReturning, State.readByte, hr]
  rfl

/-- Settles O52: SEND_BYTE alone has a guard beyond FAULT = 0, and a byte at the head of RXQ raises no RxEmpty. -/
theorem serialOperations : Obligations.SerialOperations := by
  refine fun s b hf => ⟨fun hx => ?_, fun hx => ?_, ?_, fun h rest hr => ?_, ?_⟩
  · rw [exec_sendByte]
    exact perform_of_ok hf (by simp [hx]) rfl
  · rw [StuckAt, exec_sendByte]
    exact perform_stuck (by simp [hx])
  · rw [← bitSample_rxPending]
    exact perform_always _ (fun s => s.returning (bitSample s.rxPending)) hf
  · exact perform_of_ok hf rfl (readByteReturning_of_cons hr)
  · exact perform_always _ State.flushRx hf

end Sys2Proof.Machine
end

section
/-! PROOF. The model faults (60_exceptions.md R201, R202, R208): no body writes FAULT, so a fault is the whole change of
the step that takes it; with one taken every guard but RESET's fails; and each reason under its row's conditions. -/

namespace Sys2Proof.Machine

/-! ### Taking a fault -/

/-- A step of MAIN that is performed to its end leaves FAULT alone. -/
theorem main_fault {m : MainStep} {s t : State} (h : m.body s = .ok t) : t.fault = s.fault := by
  cases m with
  | idleTop => obtain rfl := idleTopBody_ok h; split <;> rfl
  | idleTest => obtain rfl := idleTestBody_ok h; rfl
  | debounceDone | sampTop => obtain rfl := Except.ok.inj h; rfl
  | convStart => obtain ⟨-, -, -, rfl⟩ := convStartBody_ok h; rfl
  | convCollect => obtain ⟨-, -, rfl⟩ := convCollectBody_ok h; rfl
  | sampPoll => obtain ⟨-, rfl⟩ := sampPollBody_ok h; split <;> rfl
  | xferTop => obtain ⟨-, -, rfl⟩ := xferTopBody_ok h; rfl
  | txLo => obtain ⟨-, -, v, -, rfl⟩ := txLoBody_ok h; rfl
  | txHi => obtain ⟨-, -, v, -, rfl⟩ := txHiBody_ok h; rfl
  | xferPoll => obtain ⟨-, rfl⟩ := xferPollBody_ok h; split <;> rfl

/-- A primitive on its own, or a host byte, that is performed to its end leaves FAULT alone. -/
theorem ownBody_fault {i : Instr} {body : State → Except FaultReason State} {s t : State} (hb : ownBody i = some body)
    (h : body s = .ok t) : t.fault = s.fault := by
  cases i with
  | startConversion => cases hb; obtain ⟨-, -, rfl⟩ := startConversion_ok h; rfl
  | readConversionResult =>
    cases hb
    obtain ⟨-, rfl⟩ := readConversionResultReturning_ok h
    exact State.readAdcRes_fault s
  | readByte => cases hb; obtain ⟨_, _, -, rfl⟩ := readByteReturning_ok h; rfl
  | hbStart | hbCont => cases hb; cases h; exact State.takeHostByte_fault s _
  | signalTrigger | signalCmdS | signalCmdO | tacTrigger | tacCmdS | tacCmdO | clearTrigger | isConversionDone
  | sendByte _ | receivedByteAvailable | setIndicator _ | flushRx | onEdgeInterrupt | onByteReceivedInterrupt
  | hbOther _ => cases hb; cases h; rfl
  | _ => exact nomatch hb

/-- All an operation other than the composites can do to FAULT: leave no fault, or take one and write nothing else
(R201). -/
theorem exec_fault_cases {i : Instr} {s t : State} (hi : ¬(i = .tick ∨ i = .fill ∨ i = .send))
    (h : exec i s = .next t) : t.fault = none ∨ ∃ r, t = s.raiseFault r i.opid := by
  obtain hs | hc | ⟨body, hb⟩ := schedulable_or_composite_or_ownBody i
  · obtain ⟨m, rfl⟩ | ⟨o, rfl⟩ | rfl := schedulable_cases hs
    · rw [exec_main] at h
      obtain ⟨hf, ⟨-, ht⟩ | ⟨-, -, hok | ⟨e, -, ht⟩⟩⟩ := performMain_next h
      · exact .inr ⟨_, ht⟩
      · exact .inl ((main_fault hok).trans hf)
      · exact .inr ⟨e, ht⟩
    · obtain ⟨-, -, -, -, -, -, -, -, -, hf, -⟩ := other_frame ((exec_other o s).symm.trans h)
      exact .inl hf
    · obtain rfl := Host.Outcome.next.inj h
      exact .inl rfl
  · exact absurd hc hi
  · obtain ⟨g, hg⟩ := exec_ownBody hb s
    obtain ⟨hf, -, hok | ⟨e, -, ht⟩⟩ := perform_next (hg.symm.trans h)
    · exact .inl ((ownBody_fault hb hok).trans hf)
    · exact .inr ⟨e, ht⟩

/-! ### A fault taken -/

section
variable {s : State} (hf : s.fault ≠ none)
include hf

/-- Every guard but RESET's requires FAULT = 0 (R14). -/
theorem not_enabled_of_fault {i : Instr} (hi : i ≠ .reset) : enabled i s = false := by
  have hn : s.fault.isNone = false := by simpa [Option.isSome_iff_ne_none] using hf
  cases i with
  | reset => exact absurd rfl hi
  | _ => simp [enabled, MainStep.enabled, hn]

theorem perform_of_fault {op : Opid} {g : Bool} {body : State → Except FaultReason State} :
    perform op g body s = .fault (.notEnabled op) := by
  simp [perform, hf]

/-- A composite starts only where FAULT = 0 (R100, R140, R143). -/
theorem composite_of_fault {i : Instr} (hi : i = .tick ∨ i = .fill ∨ i = .send) : StuckAt i s := by
  obtain rfl | rfl | rfl := hi <;> exact if_neg (by simp [hf])

/-- With a fault taken nothing but RESET is performed (R14, R201). -/
theorem stuckAt_of_fault {i : Instr} (hi : i ≠ .reset) (hw : i.wellFormed s.params.adcBits = true) : StuckAt i s := by
  obtain hs | hc | ⟨body, hb⟩ := schedulable_or_composite_or_ownBody i
  · exact stuckAt_of_not_enabled hs hw (not_enabled_of_fault hf hi)
  · exact composite_of_fault hf hc
  · obtain ⟨g, hg⟩ := exec_ownBody hb s
    exact hg.trans (perform_of_fault hf)

end

/-- Settles O15: no body writes FAULT, so a fault is raiseFault's; every guard but RESET's tests it, and RESET clears
it. -/
theorem modelFaultContract : Obligations.ModelFaultContract := by
  refine ⟨fun i s t htick hfill hsend _ h ht => ?_, fun _ _ hf hi hw => stuckAt_of_fault hf hi hw,
    fun s _ => ⟨s.resetKeeping, rfl, rfl⟩⟩
  exact (exec_fault_cases (by simp [htick, hfill, hsend]) h).resolve_left ht

/-! ### The reasons -/

/-- A primitive whose guard holds, and whose body raises a model fault, takes it in the state before (R201). -/
theorem perform_of_error {op : Opid} {g : Bool} {body : State → Except FaultReason State} {s : State} {e : FaultReason}
    (hf : s.fault = none) (hg : g = true) (hb : body s = .error e) :
    perform op g body s = .next (s.raiseFault e op) := by
  rw [perform_of_guard hf hg, hb, atomically_error]

theorem State.startConversion_of_engaged {s : State} (h : s.adcBusy = true ∨ s.adcDone = true) :
    s.startConversion = .error .adcBusy := if_pos (by simpa using h)

theorem readConversionResultReturning_of_not_done {s : State} (hd : s.adcDone = false) :
    readConversionResultReturning s = .error .adcNotDone := by
  simp [readConversionResultReturning, State.readConversionResult, hd]

theorem readByteReturning_of_nil {s : State} (hr : s.rxq = []) : readByteReturning s = .error .rxEmpty := by
  simp only [readByteReturning, State.readByte, hr]

/-- Settles O16: each fault of a MAIN step is the branch of its whole next state that its conditions choose, and each
fault of a primitive on its own is its body's. -/
theorem faultConditions : Obligations.FaultConditions := by
  intro s hf
  obtain ⟨-, -, hconvStart⟩ := convStartResult
  obtain ⟨-, -, hconvCollect⟩ := convCollectResult
  obtain ⟨-, -, htxLo⟩ := txLoResult
  obtain ⟨-, -, htxHi⟩ := txHiResult
  refine ⟨fun hst hph hw => ?_, fun hst hph hw => ?_, fun hst hph hx => (htxLo s hf hst hph hx).1,
    fun hst hph hx => (htxHi s hf hst hph hx).1, fun hst hph hw hb => ?_, fun hst hph hb => ?_, fun hst hph hw => ?_,
    fun hst hph hd => (hconvCollect s hf hst hph hd).1, fun hst hph hw hc => ?_,
    fun h => perform_of_error hf rfl (State.startConversion_of_engaged h),
    fun hd => perform_of_error hf rfl (readConversionResultReturning_of_not_done hd),
    fun hr => perform_of_error hf rfl (readByteReturning_of_nil hr)⟩
  · exact (exec_sampPoll hf hst hph).trans (congrArg _ (if_pos hw))
  · exact (exec_xferTop hf hst hph).trans (congrArg _ (if_pos hw))
  · exact (exec_xferTop hf hst hph).trans (congrArg _ ((if_neg (not_not.2 hw)).trans (if_pos hb)))
  · exact (exec_xferPoll hf hst hph).trans (congrArg _ (if_pos hb))
  · exact (hconvStart s hf hst hph).trans (congrArg _ (if_pos hw))
  · exact (hconvStart s hf hst hph).trans (congrArg _ ((if_neg (Nat.not_le.2 hw)).trans (if_pos hc)))

end Sys2Proof.Machine
end

section
/-! PROOF. The two interrupt handlers against each other and against MAIN (60_exceptions.md R207, R209). -/

namespace Sys2Proof.Machine

/-- Settles O41: TRIG_ISR is a set of TRIG and RX_ISR one update of RXQ and the two command cells, so the two commute. -/
theorem interruptOrderIsFree : Obligations.InterruptOrderIsFree := by
  intro s hf hq
  obtain ⟨b, rest, hr⟩ := List.exists_cons_of_ne_nil hq
  obtain ⟨-, hrx⟩ := rxIsrRunsTheHostByte
  obtain ⟨-, hfirst⟩ := hrx s b rest hf hr
  obtain ⟨-, hsecond⟩ := hrx { s with trig := true } b rest hf hr
  exact ⟨_, _, _, exec_trigIsr hf, hsecond, hfirst, exec_trigIsr hf, rfl, rfl⟩

/-- Settles O42: a handler is another agent's step, and such a step leaves MAIN's state and the buffer alone. -/
theorem handlersLeaveMainUntouched : Obligations.HandlersLeaveMainUntouched := by
  intro i s t hi h
  obtain ⟨o, rfl⟩ : ∃ o : OtherStep, i = o.toInstr := by
    obtain rfl | rfl := hi
    · exact ⟨.trigIsr, rfl⟩
    · exact ⟨.rxIsr, rfl⟩
  rw [exec_other] at h
  obtain ⟨-, hst, hph, hentry, hbatch, hwr, hrd, -, hbuf, hfault, -⟩ := other_frame h
  exact ⟨hst, hph, hentry, hbatch, hwr, hrd, hbuf, hfault⟩

end Sys2Proof.Machine
end

section
/-! PROOF. RESET from every state, and nothing else from a faulted one (70_reset_and_hazards.md R230, 00_scope.md
R14). -/

namespace Sys2Proof.Machine

/-- Every operation but RESET is performed only with FAULT = 0 (R14). -/
theorem noFault_of_exec_next {i : Instr} {s t : State} (hi : i ≠ .reset) (h : exec i s = .next t) : s.fault = none := by
  obtain hs | hc | ⟨body, hb⟩ := schedulable_or_composite_or_ownBody i
  · obtain ⟨m, rfl⟩ | ⟨o, rfl⟩ | rfl := schedulable_cases hs
    · exact (performMain_next ((exec_main m s).symm.trans h)).1
    · exact (other_next ((exec_other o s).symm.trans h)).1
    · exact absurd rfl hi
  · by_contra hf
    exact nomatch (composite_of_fault hf hc).symm.trans h
  · obtain ⟨g, hg⟩ := exec_ownBody hb s
    exact (perform_next (hg.symm.trans h)).1

/-- Settles O14: RESET has no guard and resetKeeping writes every element; any other operation needs FAULT = 0. -/
theorem resetInstallsEveryValue : Obligations.ResetInstallsEveryValue :=
  ⟨rfl, fun _ _ hi hf _ h => hf (noFault_of_exec_next hi h), fun s =>
    ⟨s.resetKeeping, rfl, rfl, rfl, rfl, rfl, rfl, rfl, rfl, rfl, rfl, rfl, rfl, fun _ => rfl, rfl, rfl, rfl, rfl, rfl,
      rfl, rfl, rfl⟩⟩

end Sys2Proof.Machine
end

section
/-! PROOF. MAIN waiting for an agent that does not answer (70_reset_and_hazards.md R240, R245): step by step, where MAIN
stays while the other agents go on, and inside a fill, a send or a tick, which then wait without end
(40_state_machine.md R100). -/

namespace Sys2Proof.Machine

/-! ### Step by step -/

/-- Only ADC_COMPLETE of the other agents' steps writes ADC_DONE, and only TX_SHIFT TX_FULL (R173, R174). -/
theorem other_awaited {o : OtherStep} {s t : State} (h : o.Effect s t) :
    ((∀ v, o ≠ .adcComplete v) → t.adcDone = s.adcDone) ∧ (o ≠ .txShift → t.txFull = s.txFull) := by
  cases o with
  | trigIsr => obtain rfl := h; exact ⟨fun _ => rfl, fun _ => rfl⟩
  | rxIsr => obtain ⟨b, rest, -, rfl⟩ := h; rw [State.takeHostByte_eq]; exact ⟨fun _ => rfl, fun _ => rfl⟩
  | hostSend b => obtain rfl := h; simp
  | adcComplete v => obtain ⟨-, -, rfl⟩ := h; exact ⟨fun hv => absurd rfl (hv v), fun _ => rfl⟩
  | txShift => obtain ⟨-, rfl⟩ := h; rw [State.shiftOut_eq]; exact ⟨fun _ => rfl, fun hx => absurd rfl hx⟩

/-- What an operation does not touch while MAIN waits: the control point, FAULT and the indicator, a cell that is set,
and, but for the step that answers, what MAIN waits for. -/
structure StillWaits (i : Instr) (s t : State) : Prop where
  noFault : t.fault = none
  st : t.st = s.st
  ph : t.ph = s.ph
  ind : t.ind = s.ind
  cell : ∀ c, s.cell c = true → t.cell c = true
  adcDone : (∀ v, i ≠ .adcComplete v) → t.adcDone = s.adcDone
  txFull : i ≠ .txShift → t.txFull = s.txFull

theorem other_stillWaits {o : OtherStep} {s t : State} (h : o.run s = .next t) : StillWaits o.toInstr s t := by
  obtain ⟨-, hst, hph, -, -, -, -, hind, -, hfault, -⟩ := other_frame h
  obtain ⟨-, he⟩ := other_next h
  obtain ⟨hdone, hfull⟩ := other_awaited he
  exact ⟨hfault, hst, hph, hind, fun _ => other_cell he, fun hi => hdone fun v hv => hi v (congrArg OtherStep.toInstr hv),
    fun hi => hfull fun ho => hi (congrArg OtherStep.toInstr ho)⟩

section
variable {w : MainStep} {s : State} (hf : s.fault = none) (hc : w.control = (s.st, s.ph)) (hw : w.ready s = false)
include hf hc hw

/-- Where the step MAIN stands at waits, no other step of MAIN is dispatched to (R111, R112). -/
theorem main_stuck_of_wait (m : MainStep) : StuckAt m.toInstr s := by
  refine exec_main_stuck hf (legalControl_iff.2 ⟨w, hc⟩) fun ⟨hm, hr⟩ => ?_
  obtain rfl := MainStep.control_injective (hm.trans hc.symm)
  exact absurd hr (by simp [hw])

/-- While MAIN waits, what is performed, RESET aside, is another agent's step, and MAIN goes on waiting. -/
theorem stillWaits_of_wait {i : Instr} {t : State} (hi : i.schedulable = true) (hreset : i ≠ .reset)
    (h : exec i s = .next t) : StillWaits i s t := by
  obtain ⟨m, rfl⟩ | ⟨o, rfl⟩ | rfl := schedulable_cases hi
  · exact nomatch (main_stuck_of_wait hf hc hw m).symm.trans h
  · exact other_stillWaits ((exec_other o s).symm.trans h)
  · exact absurd rfl hreset

end

/-! ### A fill, and a tick of SAMPLING -/

/-- A fill starts with N elements to come. -/
theorem fillAt_start {s : State} (hf : s.fault = none) (hst : s.st = ST.sampling) (hph : s.ph = PH.convStart)
    (hw : s.wr = 0) (hn : 0 < s.params.n) (hidle : s.adcBusy = false ∧ s.adcDone = false) : FillAt s.params.n s :=
  ⟨hf, hst, by rw [if_neg (by omega)]; exact hph, hidle, by omega⟩

/-- A fill whose converter never answers waits at its next element (R240). -/
theorem FillAt.never {k : Nat} {s : State} (hs : FillAt k s) (hk : 0 < k) (ha : s.params.adcAnswer = .never) :
    repeatTimes k fillElement s = conversionHang := by
  obtain ⟨hf, hst, hph, ⟨hb, hd⟩, hw⟩ := hs
  rw [if_neg (by omega)] at hph
  obtain ⟨hhang, -⟩ | ⟨hans, -⟩ := fillElement_cases hf hst hph (by omega) hb hd
  · obtain ⟨k, rfl⟩ := Nat.exists_eq_add_of_lt hk
    rw [Nat.zero_add, repeatTimes, hhang]
    rfl
  · exact absurd ha hans

/-- A tick of SAMPLING whose converter never answers waits in its fill (R100, R240). -/
theorem samplingTick_never {s : State} (h : InvariantAt .sampTop s) (ha : s.params.adcAnswer = .never) :
    samplingTick s = conversionHang := by
  obtain ⟨a, hbody, hexec⟩ := h.exec_next rfl
  have hfill := sampTop_keeps h hbody
  obtain ⟨hst, hph⟩ := control_eq_iff.1 hfill.control
  obtain rfl := Except.ok.inj hbody
  have hat := fillAt_start hfill.sound.noFault hst hph rfl hfill.sound.n_pos hfill.converter
  rw [samplingTick, andThen_of_next (r := execSampTop s) hexec hfill.sound.noFault, fillBody,
    hat.never hfill.sound.n_pos ha]
  rfl

theorem exec_tick_sampling {s : State} (h : InvariantAt .sampTop s) : exec .tick s = samplingTick s := by
  obtain ⟨hst, hph⟩ := control_eq_iff.1 h.control
  rw [exec_tick_eq h.sound.noFault hph, hst]
  rfl

/-- Settles O58: MAIN stands at CONV_COLLECT with ADC_DONE = 0, which only ADC_COMPLETE ends; a fill, and the fill of a
tick, waits there or ends. -/
theorem conversionWaitHangs : Obligations.ConversionWaitHangs := by
  refine ⟨fun s hf hst hph hd => ?_, fun s hf hst hph hw hn hb hd => ?_, fun s h hst hph => ?_⟩
  · have hc : MainStep.convCollect.control = (s.st, s.ph) := control_eq_iff.2 ⟨hst, hph⟩
    refine ⟨main_stuck_of_wait hf hc hd, ⟨_, exec_trigIsr hf, rfl⟩, fun hq => ?_, fun i t hi hreset hadc h => ?_⟩
    · obtain ⟨b, rest, hr⟩ := List.exists_cons_of_ne_nil hq
      exact ⟨_, exec_rxIsr hf hr, by simp [hr]⟩
    · have hstill := stillWaits_of_wait hf hc hd hi hreset h
      exact ⟨hstill.noFault, hstill.st.trans hst, hstill.ph.trans hph, (hstill.adcDone hadc).trans hd, hstill.ind,
        hstill.cell .trig, hstill.cell .cmdS, hstill.cell .cmdO⟩
  · have hs := fillAt_start hf hst hph hw hn ⟨hb, hd⟩
    rw [HangsAt, exec_fill hf hst hph]
    refine ⟨hs.never hn, ?_⟩
    obtain ⟨hhang, ha⟩ | ⟨t, ht, -⟩ := fill_cases _ s hs
    · exact .inl ⟨ha, hhang⟩
    · exact .inr ⟨t, ht⟩
  · have hm : InvariantAt .sampTop s := h.at_control (control_eq_iff.2 ⟨hst, hph⟩)
    rw [HangsAt, exec_tick_sampling hm]
    refine ⟨samplingTick_never hm, ?_⟩
    obtain ⟨hhang, ha⟩ | ⟨t, ht, -⟩ := samplingTick_cases hm
    · exact .inl ⟨ha, hhang⟩
    · exact .inr ⟨t, ht⟩

/-! ### A send, and a tick of TRANSFER -/

/-- A send starts with N elements to come. -/
theorem sendAt_start {s : State} (hf : s.fault = none) (hst : s.st = ST.transfer) (hph : s.ph = PH.txLo)
    (hr : s.rd = 0) (hn : 0 < s.params.n) (hfull : s.wr = s.params.n ∧ s.Filled s.params.n) (hh : HoldWritten s) :
    SendAt s.params.n s :=
  ⟨hf, hst, by rw [if_neg (by omega)]; exact hph, hfull, hh, by omega⟩

/-- Where MAIN waits for a transmitter that never answers: at TX_LO if it holds a byte, at TX_HI by the byte of TX_LO if
not (R245). -/
abbrev State.waitsAt (s : State) : MainStep := if s.txFull = true then .txLo else .txHi

/-- A send whose transmitter never answers waits at its next element (R245). -/
theorem SendAt.never {k : Nat} {s : State} (hs : SendAt k s) (hk : 0 < k) (ha : s.params.txAnswer = .never) :
    repeatTimes k sendElement s = transmitHang s.waitsAt := by
  obtain ⟨hf, hst, hph, ⟨hw, hfill⟩, hh, hr⟩ := hs
  rw [if_neg (by omega)] at hph
  have hlt : s.rd < s.params.n := by omega
  obtain ⟨v, hv⟩ := Option.isSome_iff_exists.1 (hfill s.rd hlt)
  obtain ⟨m, -, hm, hhang, -⟩ | ⟨hans, -⟩ := sendElement_cases hf hst hph hw hlt hv hh
  · obtain ⟨k, rfl⟩ := Nat.exists_eq_add_of_lt hk
    rw [Nat.zero_add, repeatTimes, hhang, hm ha]
    rfl
  · exact absurd ha hans

/-- A tick of TRANSFER whose transmitter never answers waits in its send; XFER_TOP leaves the transmitter alone (R100,
R245). -/
theorem transferTick_never {s : State} (h : InvariantAt .xferTop s) (ha : s.params.txAnswer = .never) :
    transferTick s = transmitHang s.waitsAt := by
  obtain ⟨a, hbody, hexec⟩ := h.exec_next rfl
  have hsend := xferTop_keeps h hbody
  obtain ⟨hst, hph⟩ := control_eq_iff.1 hsend.control
  obtain ⟨-, -, rfl⟩ := xferTopBody_ok hbody
  obtain ⟨-, hw, hfill, -⟩ := hsend.asserts
  have hat := sendAt_start hsend.sound.noFault hst hph rfl hsend.sound.n_pos ⟨hw, hfill⟩ hsend.sound.hold
  rw [transferTick, andThen_of_next (r := execXferTop s) hexec hsend.sound.noFault, sendBody,
    hat.never hsend.sound.n_pos ha]
  rfl

theorem exec_tick_transfer {s : State} (h : InvariantAt .xferTop s) : exec .tick s = transferTick s := by
  obtain ⟨hst, hph⟩ := control_eq_iff.1 h.control
  rw [exec_tick_eq h.sound.noFault hph, hst]
  rfl

theorem State.waitsAt_opid (s : State) : s.waitsAt.toInstr.opid = if s.txFull = true then 0x0A#8 else 0x0B#8 := by
  rw [State.waitsAt]
  split <;> rfl

theorem hang_at_txLo_or_txHi {r : Result} {m : MainStep} (hm : m = .txLo ∨ m = .txHi) (h : r = transmitHang m) :
    r = .fault (.waitsForever 0x0A#8) ∨ r = .fault (.waitsForever 0x0B#8) := by
  obtain rfl | rfl := hm
  · exact .inl h
  · exact .inr h

/-- Settles O59: MAIN stands at TX_LO or TX_HI with TX_FULL = 1, which only TX_SHIFT ends; a send, and the send of a
tick, waits at one of the two or ends. -/
theorem transmitWaitHangs : Obligations.TransmitWaitHangs := by
  refine ⟨fun s hf hst hph hx => ?_, fun s hf hst hph hr hn hw hfill hh => ?_, fun s h hst hph => ?_⟩
  · obtain ⟨w, hc, hwait⟩ : ∃ w : MainStep, w.control = (s.st, s.ph) ∧ w.ready s = false := by
      obtain hph | hph := hph
      · exact ⟨.txLo, control_eq_iff.2 ⟨hst, hph⟩, by simp [MainStep.ready, hx]⟩
      · exact ⟨.txHi, control_eq_iff.2 ⟨hst, hph⟩, by simp [MainStep.ready, hx]⟩
    refine ⟨main_stuck_of_wait hf hc hwait, fun i t hi hreset hshift h => ?_⟩
    have hstill := stillWaits_of_wait hf hc hwait hi hreset h
    exact ⟨hstill.noFault, hstill.st, hstill.ph, (hstill.txFull hshift).trans hx, hstill.cell .cmdS, hstill.cell .cmdO⟩
  · have hs := sendAt_start hf hst hph hr hn ⟨hw, hfill⟩ hh
    simp only [HangsAt, exec_send hf hst hph, ← State.waitsAt_opid]
    refine ⟨hs.never hn, ?_⟩
    obtain ⟨m, hm, hhang, ha⟩ | ⟨t, ht, -⟩ := send_cases _ s hs
    · exact .inl ⟨ha, hang_at_txLo_or_txHi hm hhang⟩
    · exact .inr ⟨t, ht⟩
  · have hm : InvariantAt .xferTop s := h.at_control (control_eq_iff.2 ⟨hst, hph⟩)
    simp only [HangsAt, exec_tick_transfer hm, ← State.waitsAt_opid]
    refine ⟨transferTick_never hm, ?_⟩
    obtain ⟨m, hstep, hhang, ha⟩ | ⟨t, ht, -⟩ := transferTick_cases hm
    · exact .inl ⟨ha, hang_at_txLo_or_txHi hstep hhang⟩
    · exact .inr ⟨t, ht⟩

end Sys2Proof.Machine
end
